-- ==== Sys2Proof/Word.lean ====
section
/-! DEFINITION. The word types of NDS32 (spec/00_scope.md R5, R8; spec/30_encoding.md R81, R88). -/

namespace Sys2Proof

/-- A byte of memory, 8 bits (R8). -/
abbrev Byte := BitVec 8

/-- A 32-bit value: general register, `pc`, address, `SR[]` and `USReg[]` entry (parameter `XLEN`, R5). -/
abbrev Word := BitVec 32

/-- A 64-bit `d` register (R34). Which of them there are is the parameter `ND` (R5), so an index is a `Nat`. -/
abbrev DWord := BitVec 64

/-- A 5-bit general register index, `rt5`, `ra5`, `rb5` (R88). -/
abbrev RegIdx := BitVec 5

/-- A system register index `SRIDX`, 10 bits (R99, R113). -/
abbrev SrIdx := BitVec 10

/-- A user special register selector `USR`, 10 bits (R96, R230). -/
abbrev UsrIdx := BitVec 10

end Sys2Proof
end

