-- ==== Sys2Proof/Syntax.lean ====
section
/-! DEFINITION. The instructions: one constructor per row of spec/opcode_table.json, the operands with the widths of
spec/30_encoding.md R81, R87, R88, R99. Immediates are field values (R104, R105). An operand outside its field's range
(R100) cannot be written, but for `sv` and `d`, whose ranges are the parameters `SV_BITS` and `ND` (R5) and are checked
in WellFormed.lean. `brk` is the row `break`; `jralLp` is the one-operand row of `jral`. -/

namespace Sys2Proof

inductive Instr where
  -- system registers (spec/40_system_registers.md)
  | mfsr (rt : RegIdx) (sridx : SrIdx)
  | mtsr (rt : RegIdx) (sridx : SrIdx)
  -- loads and stores with immediate offset (spec/41_load_store_immediate.md)
  | lwi (rt ra : RegIdx) (imm : BitVec 15)
  | lhi (rt ra : RegIdx) (imm : BitVec 15)
  | lhsi (rt ra : RegIdx) (imm : BitVec 15)
  | lbi (rt ra : RegIdx) (imm : BitVec 15)
  | lbsi (rt ra : RegIdx) (imm : BitVec 15)
  | swi (rt ra : RegIdx) (imm : BitVec 15)
  | shi (rt ra : RegIdx) (imm : BitVec 15)
  | sbi (rt ra : RegIdx) (imm : BitVec 15)
  | lwiBi (rt ra : RegIdx) (imm : BitVec 15)
  | lhiBi (rt ra : RegIdx) (imm : BitVec 15)
  | lhsiBi (rt ra : RegIdx) (imm : BitVec 15)
  | lbiBi (rt ra : RegIdx) (imm : BitVec 15)
  | lbsiBi (rt ra : RegIdx) (imm : BitVec 15)
  | swiBi (rt ra : RegIdx) (imm : BitVec 15)
  | shiBi (rt ra : RegIdx) (imm : BitVec 15)
  | sbiBi (rt ra : RegIdx) (imm : BitVec 15)
  -- loads and stores with register offset (spec/42_load_store_register.md)
  | lw (rt ra rb : RegIdx) (sv : Nat)
  | lh (rt ra rb : RegIdx) (sv : Nat)
  | lhs (rt ra rb : RegIdx) (sv : Nat)
  | lb (rt ra rb : RegIdx) (sv : Nat)
  | lbs (rt ra rb : RegIdx) (sv : Nat)
  | sw (rt ra rb : RegIdx) (sv : Nat)
  | sh (rt ra rb : RegIdx) (sv : Nat)
  | sb (rt ra rb : RegIdx) (sv : Nat)
  | lwBi (rt ra rb : RegIdx) (sv : Nat)
  | lhBi (rt ra rb : RegIdx) (sv : Nat)
  | lhsBi (rt ra rb : RegIdx) (sv : Nat)
  | lbBi (rt ra rb : RegIdx) (sv : Nat)
  | lbsBi (rt ra rb : RegIdx) (sv : Nat)
  | swBi (rt ra rb : RegIdx) (sv : Nat)
  | shBi (rt ra rb : RegIdx) (sv : Nat)
  | sbBi (rt ra rb : RegIdx) (sv : Nat)
  -- jumps and branches (spec/43_jump_branch.md)
  | j (imm : BitVec 24)
  | jal (imm : BitVec 24)
  | jr (rb : RegIdx)
  | ret (rb : RegIdx)
  | jral (rt rb : RegIdx)
  | jralLp (rb : RegIdx)
  | beq (rt ra : RegIdx) (imm : BitVec 14)
  | bne (rt ra : RegIdx) (imm : BitVec 14)
  | beqz (rt : RegIdx) (imm : BitVec 16)
  | bnez (rt : RegIdx) (imm : BitVec 16)
  | bgez (rt : RegIdx) (imm : BitVec 16)
  | bltz (rt : RegIdx) (imm : BitVec 16)
  | bgtz (rt : RegIdx) (imm : BitVec 16)
  | blez (rt : RegIdx) (imm : BitVec 16)
  | bgezal (rt : RegIdx) (imm : BitVec 16)
  | bltzal (rt : RegIdx) (imm : BitVec 16)
  -- arithmetic and logic (spec/44_alu.md)
  | addi (rt ra : RegIdx) (imm : BitVec 15)
  | subri (rt ra : RegIdx) (imm : BitVec 15)
  | andi (rt ra : RegIdx) (imm : BitVec 15)
  | ori (rt ra : RegIdx) (imm : BitVec 15)
  | xori (rt ra : RegIdx) (imm : BitVec 15)
  | slti (rt ra : RegIdx) (imm : BitVec 15)
  | sltsi (rt ra : RegIdx) (imm : BitVec 15)
  | movi (rt : RegIdx) (imm : BitVec 20)
  | sethi (rt : RegIdx) (imm : BitVec 20)
  | add (rt ra rb : RegIdx)
  | sub (rt ra rb : RegIdx)
  | and (rt ra rb : RegIdx)
  | nor (rt ra rb : RegIdx)
  | or (rt ra rb : RegIdx)
  | xor (rt ra rb : RegIdx)
  | slt (rt ra rb : RegIdx)
  | slts (rt ra rb : RegIdx)
  | sva (rt ra rb : RegIdx)
  | svs (rt ra rb : RegIdx)
  | seb (rt ra : RegIdx)
  | seh (rt ra : RegIdx)
  | zeb (rt ra : RegIdx)
  | zeh (rt ra : RegIdx)
  | wsbh (rt ra : RegIdx)
  -- shifts (spec/45_shift.md)
  | slli (rt ra : RegIdx) (imm : BitVec 5)
  | srli (rt ra : RegIdx) (imm : BitVec 5)
  | srai (rt ra : RegIdx) (imm : BitVec 5)
  | rotri (rt ra : RegIdx) (imm : BitVec 5)
  | sll (rt ra rb : RegIdx)
  | srl (rt ra rb : RegIdx)
  | sra (rt ra rb : RegIdx)
  | rotr (rt ra rb : RegIdx)
  -- multiply and divide (spec/46_multiply_divide.md)
  | mul (rt ra rb : RegIdx)
  | mults64 (d : Nat) (ra rb : RegIdx)
  | mult64 (d : Nat) (ra rb : RegIdx)
  | madds64 (d : Nat) (ra rb : RegIdx)
  | madd64 (d : Nat) (ra rb : RegIdx)
  | msubs64 (d : Nat) (ra rb : RegIdx)
  | msub64 (d : Nat) (ra rb : RegIdx)
  | mult32 (d : Nat) (ra rb : RegIdx)
  | madd32 (d : Nat) (ra rb : RegIdx)
  | msub32 (d : Nat) (ra rb : RegIdx)
  | mfusr (rt : RegIdx) (usr : UsrIdx)
  | mtusr (rt : RegIdx) (usr : UsrIdx)
  | div (d : Nat) (ra rb : RegIdx)
  | divs (d : Nat) (ra rb : RegIdx)
  -- conditional moves (spec/47_conditional_move.md)
  | cmovz (rt ra rb : RegIdx)
  | cmovn (rt ra rb : RegIdx)
  -- serialization, breakpoint, system call and trap (spec/48_serialization_trap.md)
  | dsb
  | isb
  | brk (swid : BitVec 15)
  | syscall (swid : BitVec 15)
  | trap (swid : BitVec 15)
  | teqz (rc : RegIdx) (swid : BitVec 15)
  | tnez (rc : RegIdx) (swid : BitVec 15)
  -- special returns, cache control, miscellaneous (spec/49_return_cache_misc.md)
  | iret
  | retItoff (rb : RegIdx)
  | retToff (rb : RegIdx)
  | cctl (operands : BitVec 20)
  | setendB
  | setendL
  | setgieE
  | setgieD
  | standby (wake : BitVec 2)
  deriving DecidableEq, Repr

end Sys2Proof
end

