-- ==== Sys2Proof/Config.lean ====
section
/-! DEFINITION. The parameters the spec leaves open (spec/00_scope.md R5, spec/92_eei_decisions.md), as plain data,
and the one free value. `State.params` holds a value of `Params`: no instruction changes it, and a statement about every
state holds for every choice of the parameters. The values `State.reset` has are in Machine/Launch.lean (log entry 7). -/

namespace Sys2Proof

/-- `DIVS_ROUND` (R234, D15): how an inexact signed quotient of mixed signs is rounded. -/
inductive DivsRound where
  /-- toward minus infinity, the source's word "Floor" -/
  | floor
  /-- toward zero -/
  | trunc
  deriving DecidableEq, Repr

/-- What the launch map says of an allocated address at the binary level (R60, R67, R310): program text is where an
instruction is or may later be fetched, and is never stored to; data is the rest, which may be stored to and is never
fetched from. A load may read either (log entry 8). -/
inductive RegionKind where
  | text
  | data
  deriving DecidableEq, Repr

/-- A range of the launch map, both ends included. -/
structure Region where
  first : Nat
  last : Nat
  kind : RegionKind
  deriving DecidableEq, Repr

/-- A range of indices, both ends included; a list of ranges is a set of indices. -/
structure IdxRange where
  first : Nat
  last : Nat
  deriving DecidableEq, Repr

/-- Which accesses a translation applies to (R61): fetch under `PSW.IT`, data under `PSW.DT`. -/
inductive AccessKind where
  | fetch
  | data
  deriving DecidableEq, Repr

/-- One point of the parameter `TRANSLATE` (R61): the address `vaddr` maps to `paddr`, or faults where it is `none`.
A list of such points, the identity elsewhere, can stand for any map on the finite address space (log entry 15). -/
structure TransPoint where
  kind : AccessKind
  vaddr : Word
  paddr : Option Word
  deriving DecidableEq, Repr

/-- One item of a program map: the instruction at an address (R310). -/
structure ProgramItem where
  addr : Word
  instr : Instr
  deriving DecidableEq, Repr

/-- The program of a launch (R310), at one of the two levels of R313 (log entry 42). -/
inductive Program where
  /-- the assembly level, at which the spec is normative (D1): a finite map from even addresses to instructions; the
  first item that names an address decides -/
  | assembly (items : List ProgramItem)
  /-- the binary level: bytes in launch memory -/
  | binary
  deriving DecidableEq, Repr

/-- `PSW_BE_BIT`, `PSW_GIE_BIT`, `PSW_IT_BIT`, `PSW_DT_BIT` (R30, R111): where the four named fields sit in the word. -/
structure PswBits where
  be : Fin 32
  gie : Fin 32
  it : Fin 32
  dt : Fin 32
  deriving DecidableEq, Repr

/-- `TRAP_OPERANDS` (R5, R108, R253): whether the operands the source does not show have the forms of R253 and R108. -/
inductive TrapOperands where
  /-- not fixed: `teqz` and `tnez` are refused, and the events carry no data -/
  | notFixed
  /-- a register and a software id on `teqz`, `tnez`; a software id on `break`, `syscall`, `trap`; a wake mode on
  `standby`: the ids and the mode are passed on with the event -/
  | fixed
  deriving DecidableEq, Repr

/-- A half of a `d` register (R35). -/
inductive DHalf where
  /-- bits 31:0, the source's `.LO` and `.L` -/
  | lo
  /-- bits 63:32, the source's `.H` -/
  | hi
  deriving DecidableEq, Repr

/-- The selector `sel` names the half `half` of `d[idx]` (R37, D28). -/
structure UsrHalf where
  sel : UsrIdx
  idx : Nat
  half : DHalf
  deriving DecidableEq, Repr

/-- The open parameters of R5 and the launch parameters of R310 that a run does not change. -/
structure Params where
  /-- `ND`, the number of d registers (R5, R34, D5; log entry 28) -/
  nd : Nat
  /-- `SV_BITS`, the width of the operand `sv` (R5, R87, D13; log entry 28) -/
  svBits : Nat
  /-- `LP_INDEX` (R22, D4) -/
  lpIndex : RegIdx
  /-- `DIVS_ROUND` (R234, D15) -/
  divsRound : DivsRound
  /-- `IFETCH_BIG` (R54, D9) -/
  ifetchBig : Bool
  /-- `PSW_INDEX` (R30, D26) -/
  pswIndex : SrIdx
  /-- the four `PSW_*_BIT`, or `none` where they are not supplied (R111, D26) -/
  pswBits : Option PswBits
  /-- `SRIDX_SET` (R110, D27) -/
  sridxSet : List IdxRange
  /-- `SR_PLAIN` (R112, D27) -/
  srPlain : List IdxRange
  /-- the members of `USR_SET` that are halves of d registers (R37, D28) -/
  usrHalves : List UsrHalf
  /-- the other members of `USR_SET`, opaque entries of `USReg[ ]` (R36, R230) -/
  usrPlain : List IdxRange
  /-- the program: a map from addresses to instructions, or bytes in memory (R310, R313) -/
  program : Program
  /-- the launch map: the allocated addresses and the program text among them; the first range that holds an address
  decides -/
  regions : List Region
  /-- `TRANSLATE` (R61, D29); the first point that names an address decides -/
  translation : List TransPoint
  /-- `TRAP_OPERANDS` (R108, R253; log entry 18) -/
  trapOperands : TrapOperands
  deriving DecidableEq, Repr

/-- FREE VALUE (R111, U13): the bits of the PSW word other than the four named fields are unspecified. The value of the
whole word at those places, as a function of `State.pswEpoch`; it has no body, so nothing can be proved of it
(log entry 25). -/
opaque Config.freePswBits : Nat → Word

end Sys2Proof
end

