-- ==== Sys2Proof/Machine/Launch.lean ====
section
/-! DEFINITION. What the launch parameters say of an index or an address, and the parameters `State.reset` has. -/

namespace Sys2Proof

/-- Membership of an index in a set given as ranges. -/
def inRanges (rs : List IdxRange) (n : Nat) : Bool :=
  rs.any fun r => decide (r.first ≤ n) && decide (n ≤ r.last)

/-- `SRIDX` is a member of `SRIDX_SET` (R110). -/
def Params.hasSr (p : Params) (n : SrIdx) : Bool := inRanges p.sridxSet n.toNat

/-- `SRIDX` is a member of `SR_PLAIN` (R112). -/
def Params.srIsPlain (p : Params) (n : SrIdx) : Bool := inRanges p.srPlain n.toNat

/-- What a selector of `USReg[ ]` names (R36, R37). -/
inductive UsrTarget where
  | half (k : Nat) (h : DHalf)
  | entry
  deriving DecidableEq, Repr

/-- What the selector `u` names, or `none` where it is no member of `USR_SET` (R230, R231). A half of a d register past
the `ND`-th names nothing (log entry 14). -/
def Params.usrTarget (p : Params) (u : UsrIdx) : Option UsrTarget :=
  match p.usrHalves.find? (fun e => decide (e.sel = u)) with
  | some e => if e.idx < p.nd then some (.half e.idx e.half) else none
  | none => if inRanges p.usrPlain u.toNat then some .entry else none

/-- What the launch map says of the byte address `a`; `none` where it is not allocated (R60). -/
def Params.regionAt (p : Params) (a : Nat) : Option RegionKind :=
  (p.regions.find? fun r => decide (r.first ≤ a) && decide (a ≤ r.last)).map Region.kind

/-- The byte is allocated (R60): a load may read it. -/
def Params.loadable (p : Params) (a : Nat) : Bool := (p.regionAt a).isSome

/-- The byte is program text, where an instruction is or may later be fetched (R67, R310). -/
def Params.fetchable (p : Params) (a : Nat) : Bool := decide (p.regionAt a = some .text)

/-- The byte is allocated and no program text: no instruction is or may later be fetched from it (R60, R67). -/
def Params.storable (p : Params) (a : Nat) : Bool := decide (p.regionAt a = some .data)

/-- The instruction a program map holds at an address; its domain is of even addresses (R310). -/
def instrAt (items : List ProgramItem) (a : Word) : Option Instr :=
  if a.toNat % 2 = 0 then (items.find? fun e => decide (e.addr = a)).map ProgramItem.instr else none

/-- The data an event carries: the operand where `TRAP_OPERANDS` is fixed, else none (R253; log entry 18). -/
def Params.eventData {w : Nat} (p : Params) (k : BitVec w) : Option (BitVec w) :=
  match p.trapOperands with
  | .notFixed => none
  | .fixed => some k

/-- `TRANSLATE` (R61), the identity at every address no point names (D29). -/
def Params.translateAt (p : Params) (kind : AccessKind) (a : Word) : Option Word :=
  match p.translation.find? (fun t => decide (t.kind = kind) && decide (t.vaddr = a)) with
  | some t => t.paddr
  | none => some a

namespace Machine

/-- PSW field places of the spec's suggestion GK5 (spec/93_implementation_defined.md; log entry 12). -/
def launchPswBits : PswBits := { be := 5, gie := 0, it := 6, dt := 7 }

/-- The mapping of D28: selectors 0 to 3 are `d0.lo`, `d0.hi`, `d1.lo`, `d1.hi` (R37; log entry 14). -/
def launchUsrHalves : List UsrHalf :=
  [⟨0, 0, .lo⟩, ⟨1, 0, .hi⟩, ⟨2, 1, .lo⟩, ⟨3, 1, .hi⟩]

/-- The parameters `State.reset` has: the spec's default where it gives one (`ND`, `SV_BITS`, `LP_INDEX`, `IFETCH_BIG`,
`SR_PLAIN`, `USR_SET`, `TRANSLATE`, `TRAP_OPERANDS`; spec/92_eei_decisions.md, "Open parameters, collected"), else a
choice (log entries 7 to 15, 18, 28 and 42). No program is loaded: program text is the page of
the reset `pc`, where the programs of spec/95_test_vectors.md stand, and the rest of the address space is data (log
entry 8). -/
def launchParams : Params where
  nd := 2
  svBits := 2
  lpIndex := 30
  divsRound := .floor
  ifetchBig := true
  pswIndex := 0x080
  pswBits := some launchPswBits
  sridxSet := [⟨0, 1023⟩]
  srPlain := []
  usrHalves := launchUsrHalves
  usrPlain := []
  program := .binary
  regions := [⟨0x1000, 0x1FFF, .text⟩, ⟨0, 0xFFFFFFFF, .data⟩]
  translation := []
  trapOperands := .notFixed

end Machine
end Sys2Proof
end

