-- ==== Sys2Proof/Machine/Sparse.lean ====
section
/-! DEFINITION. A map from addresses or indices to values, as a list of (key, value) pairs in one canonical form: keys
strictly rising, below a bound, and no entry equal to what an unlisted key reads as. Memory, the
d registers, `SR[ ]` and `USReg[ ]` are held so. -/

namespace Sys2Proof.Machine

/-- Key and value pairs; at width 8 this is a list of `Host.Cell`. -/
abbrev Sparse (w : Nat) := List (Nat × BitVec w)

/-- The bytes of memory, keyed by address (R38). -/
abbrev Memory := List Host.Cell

/-- What an unlisted key reads as. For memory the spec gives no value (R43): DESIGN CHOICE, log entry 6, unsafe; for
the d registers log entry 3, for `SR[ ]` and `USReg[ ]` log entry 5. -/
def unlisted (w : Nat) : BitVec w := 0#w

/-- The value at a key. -/
def sparseRead {w : Nat} : Sparse w → Nat → BitVec w
  | [], _ => unlisted w
  | (b, x) :: rest, a => if a = b then x else sparseRead rest a

/-- Adds an entry before the first larger key. -/
def sparseInsert {w : Nat} : Sparse w → Nat → BitVec w → Sparse w
  | [], a, v => [(a, v)]
  | (b, x) :: rest, a, v => if a < b then (a, v) :: (b, x) :: rest else (b, x) :: sparseInsert rest a v

/-- Drops every entry of a key. -/
def sparseErase {w : Nat} (m : Sparse w) (a : Nat) : Sparse w := m.filter fun e => decide (e.1 ≠ a)

/-- Writes the value at a key; writing what an unlisted key reads as removes the entry. -/
def sparseWrite {w : Nat} (m : Sparse w) (a : Nat) (v : BitVec w) : Sparse w :=
  if v = unlisted w then sparseErase m a else sparseInsert (sparseErase m a) a v

/-- The canonical form. -/
abbrev sparseWf {w : Nat} (bound : Nat) (m : Sparse w) : Prop :=
  m.Pairwise (fun e f => e.1 < f.1) ∧ ∀ e ∈ m, e.1 < bound ∧ e.2 ≠ unlisted w

/-- The canonical form of memory: 2^32 addresses (R38). -/
abbrev Memory.wf (m : Memory) : Prop := sparseWf (2 ^ 32) m

end Sys2Proof.Machine
end

