-- ==== Sys2Proof/Machine/State.lean ====
section
/-! DEFINITION. The machine's state as plain data (spec/10_state.md), the outcomes that end a step
(spec/60_exceptions.md R281), and the state after reset. -/

namespace Sys2Proof.Machine

/-- The four named fields of the processor status word (R30 to R33). -/
structure Psw where
  /-- data byte order: true is big-endian (R31, R50) -/
  be : Bool
  /-- global interrupt enable; nothing in scope reads it (R32) -/
  gie : Bool
  /-- instruction address translation (R33) -/
  it : Bool
  /-- data address translation (R33) -/
  dt : Bool
  deriving DecidableEq, Repr

/-- Running or standby (R41, R43). `wake` is the wake mode of the `standby` that was executed (R99), where
`TRAP_OPERANDS` is fixed (R108). -/
inductive RunState where
  | running
  | standby (wake : Option (BitVec 2))
  deriving DecidableEq, Repr

structure State where
  /-- `x[0]` .. `x[31]` (R20); `LP` is `x[LP_INDEX]` (R22) -/
  gpr : Vector Word 32
  /-- the address of the instruction being executed (R25) -/
  pc : Word
  /-- `d[0]` .. `d[ND - 1]` (R34) -/
  d : Sparse 64
  /-- PSW's named fields (R30) -/
  psw : Psw
  /-- `SR[ ]` but for PSW (R29) -/
  sr : Sparse 32
  /-- the entries of `USReg[ ]` that are no half of a d register (R36) -/
  usr : Sparse 32
  /-- byte-addressed memory (R38) -/
  mem : Memory
  /-- cache state: the spec gives it no structure and no instruction in scope has an effect on it (R40); one number, never
  interpreted, stands for it (log entry 21) -/
  cache : Nat
  /-- running or standby (R41) -/
  run : RunState
  /-- the MODEL's own: which free value stands in the PSW bits the spec does not name (R111; log entry 25) -/
  pswEpoch : Nat
  /-- the open and launch parameters (R5, R310); no instruction changes them -/
  params : Params
  deriving DecidableEq, Repr

/-- The outcomes of R281's event and fault groups: the step does not complete and nothing is changed (R280). All are
safe: the model stops where hardware goes on in a way the spec does not describe (R285, R287). -/
inductive Fault where
  /-- `break` (R247), with its address, and its software id where `TRAP_OPERANDS` is fixed (R253). Safe: what follows is
  the environment's (R285). -/
  | breakpoint (pc : Word) (swid : Option (BitVec 15))
  /-- `syscall` (R248). Safe, as `breakpoint`. -/
  | systemCall (pc : Word) (swid : Option (BitVec 15))
  /-- `trap` (R249), `teqz` and `tnez` when their condition holds (R250, R251). Safe, as `breakpoint`. -/
  | trap (pc : Word) (swid : Option (BitVec 15))
  /-- `standby` (R268), and every step of a core in standby (R295): nothing wakes it. Safe. -/
  | standby (pc : Word) (wake : Option (BitVec 2))
  /-- a halfword or word access at an address that is no multiple of its size (R55). Safe: hardware of the family faults. -/
  | dataMisaligned (addr : Word) (size : Nat)
  /-- a taken control transfer to an odd address (R27, R177). Safe. -/
  | instructionMisaligned (target : Word)
  /-- an access outside the launch memory (R60), a store into program text (R67), a fetch outside the launch memory or
  the program map (R313), a fetch of a byte that is no program text (R67; log entry 8). Safe. -/
  | accessFault (addr : Word)
  /-- the parameter `TRANSLATE` gives "fault" for the address (R61; log entry 15). Safe. -/
  | translationFault (kind : AccessKind) (addr : Word)
  /-- the word at `pc` is no instruction (R100), or an operand is outside its range or set (R100, R110, R230). It carries
  `pc` (R281) and the word (R100), which at the assembly level there is none of (log entry 41). Safe. -/
  | notAnInstruction (pc : Word) (word : Option Word)
  deriving DecidableEq, Repr

/-- Which undefined division (R235). -/
inductive DivideCase where
  | zero
  | overflow
  deriving DecidableEq, Repr

/-- Which operand overlap (R24). -/
inductive OverlapCase where
  /-- (a) `rt5 = ra5` in a post-increment load -/
  | rtRa
  /-- (b) `rt5 = rb5` in a register-offset post-increment load -/
  | rtRb
  /-- (c) `rt5 = LP_INDEX` in `bgezal` or `bltzal` -/
  | rtLp
  deriving DecidableEq, Repr

/-- Which case the spec does not model (R281, `Unmodelled`). -/
inductive UnmodelledCase where
  /-- `iret` (R260) -/
  | iret
  /-- `cctl` (R263) -/
  | cctl
  /-- `mfsr` at `PSW_INDEX` where the layout is not supplied (R111) -/
  | mfsrPsw
  /-- `mtsr` at `PSW_INDEX` where the layout is not supplied (R111) -/
  | mtsrPsw
  /-- `mtsr` outside `SR_PLAIN` (R112) -/
  | mtsrSideEffects
  /-- `teqz` where `TRAP_OPERANDS` is not fixed (R250) -/
  | teqz
  /-- `tnez` where `TRAP_OPERANDS` is not fixed (R251) -/
  | tnez
  deriving DecidableEq, Repr

/-- The mnemonic that `Unmodelled` carries (R281). -/
def UnmodelledCase.mnemonic : UnmodelledCase → String
  | .iret => "iret"
  | .cctl => "cctl"
  | .mfsrPsw => "mfsr"
  | .mtsrPsw | .mtsrSideEffects => "mtsr"
  | .teqz => "teqz"
  | .tnez => "tnez"

/-- The outcomes of R281's refusal group: the spec gives the case no meaning. All are safe: the model stops. -/
inductive Refusal where
  /-- an instruction of the table that has no meaning in the model yet (none is left). Safe. -/
  | notModelled (mnemonic : String)
  /-- `div`, `divs` (R235). Safe: the spec refuses the case. -/
  | divideUndefined (c : DivideCase)
  /-- post-increment loads, `bgezal`, `bltzal` (R24). Safe: the spec refuses the case. -/
  | operandOverlap (c : OverlapCase)
  /-- `iret`, `cctl`, `mtsr`, `mfsr`, `teqz`, `tnez` in the cases of R281; the case says the mnemonic
  (`UnmodelledCase.mnemonic`). Safe: the spec refuses the case. -/
  | unmodelled (c : UnmodelledCase)
  deriving DecidableEq, Repr

/-- The machine after reset. The spec states no reset value (R43, R310); each value is named in log entries 1 to
15, 18, 21, 25, 28 and 42. -/
def State.reset : State where
  gpr := Vector.replicate 32 0#32
  pc := 0x00001000#32
  d := []
  psw := { be := false, gie := false, it := false, dt := false }
  sr := []
  usr := []
  mem := []
  cache := 0
  run := .running
  pswEpoch := 0
  params := launchParams

end Sys2Proof.Machine
end

