-- ==== Sys2Proof/WellFormed.lean ====
section
/-! DEFINITION. Well-formed instructions (spec/30_encoding.md R100). The ranges of R83 to R88 are the widths of the
constructors' arguments; what is left to check is what the parameters decide: that a selector is a member of its set
(R110, R230, R231), that `sv` has `SV_BITS` bits (R87) and that a d register is one of the `ND` (R34, R88). -/

namespace Sys2Proof

/-- The instruction is one of the spec's under the parameters `p`. -/
def Instr.wellFormed (p : Params) : Instr → Bool
  | .mfsr _ n | .mtsr _ n => p.hasSr n
  | .mfusr _ u | .mtusr _ u => (p.usrTarget u).isSome
  | .lw _ _ _ sv | .lh _ _ _ sv | .lhs _ _ _ sv | .lb _ _ _ sv | .lbs _ _ _ sv
  | .sw _ _ _ sv | .sh _ _ _ sv | .sb _ _ _ sv
  | .lwBi _ _ _ sv | .lhBi _ _ _ sv | .lhsBi _ _ _ sv | .lbBi _ _ _ sv | .lbsBi _ _ _ sv
  | .swBi _ _ _ sv | .shBi _ _ _ sv | .sbBi _ _ _ sv => decide (sv < 2 ^ p.svBits)
  | .mults64 k _ _ | .mult64 k _ _ | .madds64 k _ _ | .madd64 k _ _ | .msubs64 k _ _ | .msub64 k _ _
  | .mult32 k _ _ | .madd32 k _ _ | .msub32 k _ _ | .div k _ _ | .divs k _ _ => decide (k < p.nd)
  | .lwi _ _ _ | .lhi _ _ _ | .lhsi _ _ _ | .lbi _ _ _ | .lbsi _ _ _ | .swi _ _ _ | .shi _ _ _ | .sbi _ _ _
  | .lwiBi _ _ _ | .lhiBi _ _ _ | .lhsiBi _ _ _ | .lbiBi _ _ _ | .lbsiBi _ _ _
  | .swiBi _ _ _ | .shiBi _ _ _ | .sbiBi _ _ _
  | .j _ | .jal _ | .jr _ | .ret _ | .jral _ _ | .jralLp _
  | .beq _ _ _ | .bne _ _ _ | .beqz _ _ | .bnez _ _ | .bgez _ _ | .bltz _ _ | .bgtz _ _ | .blez _ _
  | .bgezal _ _ | .bltzal _ _
  | .addi _ _ _ | .subri _ _ _ | .andi _ _ _ | .ori _ _ _ | .xori _ _ _ | .slti _ _ _ | .sltsi _ _ _
  | .movi _ _ | .sethi _ _
  | .add _ _ _ | .sub _ _ _ | .and _ _ _ | .nor _ _ _ | .or _ _ _ | .xor _ _ _ | .slt _ _ _ | .slts _ _ _
  | .sva _ _ _ | .svs _ _ _ | .seb _ _ | .seh _ _ | .zeb _ _ | .zeh _ _ | .wsbh _ _
  | .slli _ _ _ | .srli _ _ _ | .srai _ _ _ | .rotri _ _ _ | .sll _ _ _ | .srl _ _ _ | .sra _ _ _ | .rotr _ _ _
  | .mul _ _ _ | .cmovz _ _ _ | .cmovn _ _ _
  | .dsb | .isb | .brk _ | .syscall _ | .trap _ | .teqz _ _ | .tnez _ _
  | .iret | .retItoff _ | .retToff _ | .cctl _ | .setendB | .setendL | .setgieE | .setgieD | .standby _ => true

end Sys2Proof
end

