-- ==== Sys2Proof/Decode.lean ====
section
/-! DEFINITION. The decoder and the encoder, from the provisional encoding of spec/30_encoding.md part 3 (R90 to R99)
and spec/opcode_table.json (log entry 17). A word that matches no row, a reserved field that is not zero included, is no
instruction (R100). -/

namespace Sys2Proof

/-- Why bytes are not an instruction (R100). -/
inductive DecodeError where
  /-- fewer than four bytes are given -/
  | tooShort
  /-- bit 31 is 1: a 16-bit instruction, out of scope (R90, R102) -/
  | sixteenBit
  /-- the word matches no row of the opcode table (R100) -/
  | noRow
  deriving DecidableEq, Repr

/-! ### Fields (R90) -/

def fieldRt (w : Word) : RegIdx := w.extractLsb' 20 5
def fieldRa (w : Word) : RegIdx := w.extractLsb' 15 5
def fieldRb (w : Word) : RegIdx := w.extractLsb' 10 5
def fieldImm14 (w : Word) : BitVec 14 := w.extractLsb' 0 14
def fieldImm15 (w : Word) : BitVec 15 := w.extractLsb' 0 15
def fieldImm16 (w : Word) : BitVec 16 := w.extractLsb' 0 16
def fieldImm20 (w : Word) : BitVec 20 := w.extractLsb' 0 20
def fieldImm24 (w : Word) : BitVec 24 := w.extractLsb' 0 24
/-- bits 9:8: `sv` in MEM (R97), `dtit` in JREG (R98) -/
def fieldSv (w : Word) : BitVec 2 := w.extractLsb' 8 2
/-- bits 19:10: `SRIDX` (R99) and `USR` (R96) -/
def fieldIdx10 (w : Word) : BitVec 10 := w.extractLsb' 10 10
/-- bit 21, the d register (R96) -/
def fieldD (w : Word) : BitVec 1 := w.extractLsb' 21 1
/-- bits 19:5, the software id (R99) -/
def fieldSwid (w : Word) : BitVec 15 := w.extractLsb' 5 15
def fieldSub5 (w : Word) : BitVec 5 := w.extractLsb' 0 5
/-- bits 9:5 -/
def fieldMid5 (w : Word) : BitVec 5 := w.extractLsb' 5 5

/-! ### Formats with a sub-opcode -/

/-- ALU_1 (R95). -/
def decodeAlu1 (w : Word) : Except DecodeError Instr :=
  let rt := fieldRt w
  let ra := fieldRa w
  let rb := fieldRb w
  if fieldMid5 w = 0#5 then
    match fieldSub5 w with
    | 0b00000#5 => .ok (.add rt ra rb)
    | 0b00001#5 => .ok (.sub rt ra rb)
    | 0b00010#5 => .ok (.and rt ra rb)
    | 0b00011#5 => .ok (.xor rt ra rb)
    | 0b00100#5 => .ok (.or rt ra rb)
    | 0b00101#5 => .ok (.nor rt ra rb)
    | 0b00110#5 => .ok (.slt rt ra rb)
    | 0b00111#5 => .ok (.slts rt ra rb)
    | 0b01000#5 => .ok (.slli rt ra rb)
    | 0b01001#5 => .ok (.srli rt ra rb)
    | 0b01010#5 => .ok (.srai rt ra rb)
    | 0b01011#5 => .ok (.rotri rt ra rb)
    | 0b01100#5 => .ok (.sll rt ra rb)
    | 0b01101#5 => .ok (.srl rt ra rb)
    | 0b01110#5 => .ok (.sra rt ra rb)
    | 0b01111#5 => .ok (.rotr rt ra rb)
    | 0b10000#5 => if rb = 0#5 then .ok (.seb rt ra) else .error .noRow
    | 0b10001#5 => if rb = 0#5 then .ok (.seh rt ra) else .error .noRow
    | 0b10011#5 => if rb = 0#5 then .ok (.zeh rt ra) else .error .noRow
    | 0b10100#5 => if rb = 0#5 then .ok (.wsbh rt ra) else .error .noRow
    | 0b11000#5 => .ok (.sva rt ra rb)
    | 0b11001#5 => .ok (.svs rt ra rb)
    | 0b11010#5 => .ok (.cmovz rt ra rb)
    | 0b11011#5 => .ok (.cmovn rt ra rb)
    | _ => .error .noRow
  else .error .noRow

/-- The `D3` rows of ALU_2: bits 24:22 and 20 are 0 (R96). -/
def decodeD3 (w : Word) (f : Nat → RegIdx → RegIdx → Instr) : Except DecodeError Instr :=
  if w.extractLsb' 22 3 = 0#3 ∧ w.extractLsb' 20 1 = 0#1 then .ok (f (fieldD w).toNat (fieldRa w) (fieldRb w))
  else .error .noRow

/-- ALU_2 (R96): bits 9:6 are 0. -/
def decodeAlu2 (w : Word) : Except DecodeError Instr :=
  if w.extractLsb' 6 4 = 0#4 then
    match w.extractLsb' 0 6 with
    | 0b100000#6 => .ok (.mfusr (fieldRt w) (fieldIdx10 w))
    | 0b100001#6 => .ok (.mtusr (fieldRt w) (fieldIdx10 w))
    | 0b100100#6 => .ok (.mul (fieldRt w) (fieldRa w) (fieldRb w))
    | 0b101000#6 => decodeD3 w .mults64
    | 0b101001#6 => decodeD3 w .mult64
    | 0b101010#6 => decodeD3 w .madds64
    | 0b101011#6 => decodeD3 w .madd64
    | 0b101100#6 => decodeD3 w .msubs64
    | 0b101101#6 => decodeD3 w .msub64
    | 0b101110#6 => decodeD3 w .divs
    | 0b101111#6 => decodeD3 w .div
    | 0b110001#6 => decodeD3 w .mult32
    | 0b110011#6 => decodeD3 w .madd32
    | 0b110101#6 => decodeD3 w .msub32
    | _ => .error .noRow
  else .error .noRow

/-- MEM (R97). -/
def decodeMem (w : Word) : Except DecodeError Instr :=
  let rt := fieldRt w
  let ra := fieldRa w
  let rb := fieldRb w
  let sv := (fieldSv w).toNat
  match w.extractLsb' 0 8 with
  | 0b00000000#8 => .ok (.lb rt ra rb sv)
  | 0b00000001#8 => .ok (.lh rt ra rb sv)
  | 0b00000010#8 => .ok (.lw rt ra rb sv)
  | 0b00000100#8 => .ok (.lbBi rt ra rb sv)
  | 0b00000101#8 => .ok (.lhBi rt ra rb sv)
  | 0b00000110#8 => .ok (.lwBi rt ra rb sv)
  | 0b00001000#8 => .ok (.sb rt ra rb sv)
  | 0b00001001#8 => .ok (.sh rt ra rb sv)
  | 0b00001010#8 => .ok (.sw rt ra rb sv)
  | 0b00001100#8 => .ok (.sbBi rt ra rb sv)
  | 0b00001101#8 => .ok (.shBi rt ra rb sv)
  | 0b00001110#8 => .ok (.swBi rt ra rb sv)
  | 0b00010000#8 => .ok (.lbs rt ra rb sv)
  | 0b00010001#8 => .ok (.lhs rt ra rb sv)
  | 0b00010100#8 => .ok (.lbsBi rt ra rb sv)
  | 0b00010101#8 => .ok (.lhsBi rt ra rb sv)
  | _ => .error .noRow

/-- JREG (R98): bits 19:15 are 0; `dtit`, bits 7:6, `ret` and `sub5` select the row; `rt` is 0 but in `jral`. -/
def decodeJreg (w : Word) : Except DecodeError Instr :=
  if fieldRa w = 0#5 then
    match w.extractLsb' 0 10 with
    | 0b0000000001#10 => .ok (.jral (fieldRt w) (fieldRb w))
    | 0b0000000000#10 => if fieldRt w = 0#5 then .ok (.jr (fieldRb w)) else .error .noRow
    | 0b0000100000#10 => if fieldRt w = 0#5 then .ok (.ret (fieldRb w)) else .error .noRow
    | 0b0100100000#10 => if fieldRt w = 0#5 then .ok (.retItoff (fieldRb w)) else .error .noRow
    | 0b1100100000#10 => if fieldRt w = 0#5 then .ok (.retToff (fieldRb w)) else .error .noRow
    | _ => .error .noRow
  else .error .noRow

/-- BR2 (R92). -/
def decodeBr2 (w : Word) : Except DecodeError Instr :=
  match w.extractLsb' 16 4 with
  | 0b0010#4 => .ok (.beqz (fieldRt w) (fieldImm16 w))
  | 0b0011#4 => .ok (.bnez (fieldRt w) (fieldImm16 w))
  | 0b0100#4 => .ok (.bgez (fieldRt w) (fieldImm16 w))
  | 0b0101#4 => .ok (.bltz (fieldRt w) (fieldImm16 w))
  | 0b0110#4 => .ok (.bgtz (fieldRt w) (fieldImm16 w))
  | 0b0111#4 => .ok (.blez (fieldRt w) (fieldImm16 w))
  | 0b1100#4 => .ok (.bgezal (fieldRt w) (fieldImm16 w))
  | 0b1101#4 => .ok (.bltzal (fieldRt w) (fieldImm16 w))
  | _ => .error .noRow

/-- The rows whose bits 24:20 are 0 and whose bits 19:5 are a software id (R99). -/
def decodeSwid (w : Word) (f : BitVec 15 → Instr) : Except DecodeError Instr :=
  if fieldRt w = 0#5 then .ok (f (fieldSwid w)) else .error .noRow

/-- The rows whose bits 24:5 are all 0 (R99). -/
def decodeBare (w : Word) (i : Instr) : Except DecodeError Instr :=
  if w.extractLsb' 5 20 = 0#20 then .ok i else .error .noRow

/-- MISC sub5 `00011`: `mtsr` where bits 9:5 are 0; the four `set*` instructions are the words of R99. -/
def decodeMtsr (w : Word) : Except DecodeError Instr :=
  if fieldMid5 w = 0#5 then .ok (.mtsr (fieldRt w) (fieldIdx10 w))
  else if w = 0x64120023#32 then .ok .setendB
  else if w = 0x64020023#32 then .ok .setendL
  else if w = 0x64120043#32 then .ok .setgieE
  else if w = 0x64020043#32 then .ok .setgieD
  else .error .noRow

/-- MISC (R99). -/
def decodeMisc (w : Word) : Except DecodeError Instr :=
  match fieldSub5 w with
  | 0b00000#5 => if w.extractLsb' 7 18 = 0#18 then .ok (.standby (w.extractLsb' 5 2)) else .error .noRow
  | 0b00001#5 => .ok (.cctl (w.extractLsb' 5 20))
  | 0b00010#5 => if fieldMid5 w = 0#5 then .ok (.mfsr (fieldRt w) (fieldIdx10 w)) else .error .noRow
  | 0b00011#5 => decodeMtsr w
  | 0b00100#5 => decodeBare w .iret
  | 0b00101#5 => decodeSwid w .trap
  | 0b00110#5 => .ok (.teqz (fieldRt w) (fieldSwid w))
  | 0b00111#5 => .ok (.tnez (fieldRt w) (fieldSwid w))
  | 0b01000#5 => decodeBare w .dsb
  | 0b01001#5 => decodeBare w .isb
  | 0b01010#5 => decodeSwid w .brk
  | 0b01011#5 => decodeSwid w .syscall
  | _ => .error .noRow

/-- The instruction a 32-bit word is (R90 to R100). The words of `zeb` and of one-operand `jral` are read as `andi` and
two-operand `jral` (R106, R107). -/
def decodeWord (w : Word) : Except DecodeError Instr :=
  if w.extractLsb' 31 1 = 1#1 then .error .sixteenBit
  else
    match w.extractLsb' 25 6 with
    | 0b000000#6 => .ok (.lbi (fieldRt w) (fieldRa w) (fieldImm15 w))
    | 0b000001#6 => .ok (.lhi (fieldRt w) (fieldRa w) (fieldImm15 w))
    | 0b000010#6 => .ok (.lwi (fieldRt w) (fieldRa w) (fieldImm15 w))
    | 0b000100#6 => .ok (.lbiBi (fieldRt w) (fieldRa w) (fieldImm15 w))
    | 0b000101#6 => .ok (.lhiBi (fieldRt w) (fieldRa w) (fieldImm15 w))
    | 0b000110#6 => .ok (.lwiBi (fieldRt w) (fieldRa w) (fieldImm15 w))
    | 0b001000#6 => .ok (.sbi (fieldRt w) (fieldRa w) (fieldImm15 w))
    | 0b001001#6 => .ok (.shi (fieldRt w) (fieldRa w) (fieldImm15 w))
    | 0b001010#6 => .ok (.swi (fieldRt w) (fieldRa w) (fieldImm15 w))
    | 0b001100#6 => .ok (.sbiBi (fieldRt w) (fieldRa w) (fieldImm15 w))
    | 0b001101#6 => .ok (.shiBi (fieldRt w) (fieldRa w) (fieldImm15 w))
    | 0b001110#6 => .ok (.swiBi (fieldRt w) (fieldRa w) (fieldImm15 w))
    | 0b010000#6 => .ok (.lbsi (fieldRt w) (fieldRa w) (fieldImm15 w))
    | 0b010001#6 => .ok (.lhsi (fieldRt w) (fieldRa w) (fieldImm15 w))
    | 0b010100#6 => .ok (.lbsiBi (fieldRt w) (fieldRa w) (fieldImm15 w))
    | 0b010101#6 => .ok (.lhsiBi (fieldRt w) (fieldRa w) (fieldImm15 w))
    | 0b011100#6 => decodeMem w
    | 0b100000#6 => decodeAlu1 w
    | 0b100001#6 => decodeAlu2 w
    | 0b100010#6 => .ok (.movi (fieldRt w) (fieldImm20 w))
    | 0b100011#6 => .ok (.sethi (fieldRt w) (fieldImm20 w))
    | 0b100100#6 => .ok (if w.extractLsb' 24 1 = 0#1 then .j (fieldImm24 w) else .jal (fieldImm24 w))
    | 0b100101#6 => decodeJreg w
    | 0b100110#6 =>
      .ok (if w.extractLsb' 14 1 = 0#1 then .beq (fieldRt w) (fieldRa w) (fieldImm14 w)
        else .bne (fieldRt w) (fieldRa w) (fieldImm14 w))
    | 0b100111#6 => decodeBr2 w
    | 0b101000#6 => .ok (.addi (fieldRt w) (fieldRa w) (fieldImm15 w))
    | 0b101001#6 => .ok (.subri (fieldRt w) (fieldRa w) (fieldImm15 w))
    | 0b101010#6 => .ok (.andi (fieldRt w) (fieldRa w) (fieldImm15 w))
    | 0b101011#6 => .ok (.xori (fieldRt w) (fieldRa w) (fieldImm15 w))
    | 0b101100#6 => .ok (.ori (fieldRt w) (fieldRa w) (fieldImm15 w))
    | 0b101110#6 => .ok (.slti (fieldRt w) (fieldRa w) (fieldImm15 w))
    | 0b101111#6 => .ok (.sltsi (fieldRt w) (fieldRa w) (fieldImm15 w))
    | 0b110010#6 => decodeMisc w
    | _ => .error .noRow

/-- The word four bytes make, the first byte the most significant (R54 with `IFETCH_BIG`). -/
def wordOfBytes (b0 b1 b2 b3 : Byte) : Word := b0 ++ b1 ++ b2 ++ b3

/-- The four bytes of a word, most significant first. -/
def bytesOfWord (w : Word) : List Byte :=
  [w.extractLsb' 24 8, w.extractLsb' 16 8, w.extractLsb' 8 8, w.extractLsb' 0 8]

/-- The instruction at the head of a list of bytes, and the bytes after it; total on any bytes. -/
def decodeBytes : List Byte → Except DecodeError (Instr × List Byte)
  | b0 :: b1 :: b2 :: b3 :: rest => (decodeWord (wordOfBytes b0 b1 b2 b3)).map fun i => (i, rest)
  | _ => .error .tooShort

/-- The low `nbits` bits of `w` as an instruction word; the bits above are 0. -/
def tableWord (nbits w : Nat) : Word := BitVec.ofNat 32 (w % 2 ^ nbits)

/-- The instruction the decoder reads from a word of the opcode table, laid out as bytes first. -/
def decodeTableWord (nbits w : Nat) : Option Instr :=
  match decodeBytes (bytesOfWord (tableWord nbits w)) with
  | .ok (i, _) => some i
  | .error _ => none

/-! ### The encoder -/

/-- Format I15 (R91). -/
def encI15 (opc : BitVec 6) (rt ra : RegIdx) (imm : BitVec 15) : Word := 0#1 ++ opc ++ rt ++ ra ++ imm
/-- Format I20 (R92). -/
def encI20 (opc : BitVec 6) (rt : RegIdx) (imm : BitVec 20) : Word := 0#1 ++ opc ++ rt ++ imm
/-- Format BR2 (R92). -/
def encBr2 (sub : BitVec 4) (rt : RegIdx) (imm : BitVec 16) : Word := 0#1 ++ 0b100111#6 ++ rt ++ sub ++ imm
/-- Format JI (R93). -/
def encJi (sub : BitVec 1) (imm : BitVec 24) : Word := 0#1 ++ 0b100100#6 ++ sub ++ imm
/-- Format BR1 (R94). -/
def encBr1 (sub : BitVec 1) (rt ra : RegIdx) (imm : BitVec 14) : Word :=
  0#1 ++ 0b100110#6 ++ rt ++ ra ++ sub ++ imm
/-- Format ALU_1 (R95). -/
def encAlu1 (sub : BitVec 5) (rt ra rb : RegIdx) : Word := 0#1 ++ 0b100000#6 ++ rt ++ ra ++ rb ++ 0#5 ++ sub
/-- Format ALU_2 with three general registers (R96). -/
def encAlu2 (sub : BitVec 6) (rt ra rb : RegIdx) : Word := 0#1 ++ 0b100001#6 ++ rt ++ ra ++ rb ++ 0#4 ++ sub
/-- Format ALU_2, shape `D3` (R96). -/
def encD3 (sub : BitVec 6) (d : BitVec 1) (ra rb : RegIdx) : Word :=
  0#1 ++ 0b100001#6 ++ 0#3 ++ d ++ 0#1 ++ ra ++ rb ++ 0#4 ++ sub
/-- Format ALU_2, shape `USR` (R96). -/
def encUsr (sub : BitVec 6) (rt : RegIdx) (u : UsrIdx) : Word := 0#1 ++ 0b100001#6 ++ rt ++ u ++ 0#4 ++ sub
/-- Format MEM (R97). -/
def encMem (sub : BitVec 8) (rt ra rb : RegIdx) (sv : BitVec 2) : Word :=
  0#1 ++ 0b011100#6 ++ rt ++ ra ++ rb ++ sv ++ sub
/-- Format JREG (R98); `low` is `dtit`, `00`, `ret`, `sub5`. -/
def encJreg (low : BitVec 10) (rt rb : RegIdx) : Word := 0#1 ++ 0b100101#6 ++ rt ++ 0#5 ++ rb ++ low
/-- Format MISC with its bits 24:5 (R99). -/
def encMisc (sub : BitVec 5) (mid : BitVec 20) : Word := 0#1 ++ 0b110010#6 ++ mid ++ sub

/-- The bits of an instruction's word, an operand `sv` or `d` cut to its field. `zeb` is encoded as `andi rt, ra, 0xFF`
(R106) and one-operand `jral` as `jral` with `rt` = `LP_INDEX` (R98, R107). -/
def Instr.encode (p : Params) : Instr → Word
  | .mfsr rt n => encMisc 0b00010#5 (rt ++ n ++ 0#5)
  | .mtsr rt n => encMisc 0b00011#5 (rt ++ n ++ 0#5)
  | .lwi rt ra imm => encI15 0b000010#6 rt ra imm
  | .lhi rt ra imm => encI15 0b000001#6 rt ra imm
  | .lhsi rt ra imm => encI15 0b010001#6 rt ra imm
  | .lbi rt ra imm => encI15 0b000000#6 rt ra imm
  | .lbsi rt ra imm => encI15 0b010000#6 rt ra imm
  | .swi rt ra imm => encI15 0b001010#6 rt ra imm
  | .shi rt ra imm => encI15 0b001001#6 rt ra imm
  | .sbi rt ra imm => encI15 0b001000#6 rt ra imm
  | .lwiBi rt ra imm => encI15 0b000110#6 rt ra imm
  | .lhiBi rt ra imm => encI15 0b000101#6 rt ra imm
  | .lhsiBi rt ra imm => encI15 0b010101#6 rt ra imm
  | .lbiBi rt ra imm => encI15 0b000100#6 rt ra imm
  | .lbsiBi rt ra imm => encI15 0b010100#6 rt ra imm
  | .swiBi rt ra imm => encI15 0b001110#6 rt ra imm
  | .shiBi rt ra imm => encI15 0b001101#6 rt ra imm
  | .sbiBi rt ra imm => encI15 0b001100#6 rt ra imm
  | .lw rt ra rb sv => encMem 0b00000010#8 rt ra rb (BitVec.ofNat 2 sv)
  | .lh rt ra rb sv => encMem 0b00000001#8 rt ra rb (BitVec.ofNat 2 sv)
  | .lhs rt ra rb sv => encMem 0b00010001#8 rt ra rb (BitVec.ofNat 2 sv)
  | .lb rt ra rb sv => encMem 0b00000000#8 rt ra rb (BitVec.ofNat 2 sv)
  | .lbs rt ra rb sv => encMem 0b00010000#8 rt ra rb (BitVec.ofNat 2 sv)
  | .sw rt ra rb sv => encMem 0b00001010#8 rt ra rb (BitVec.ofNat 2 sv)
  | .sh rt ra rb sv => encMem 0b00001001#8 rt ra rb (BitVec.ofNat 2 sv)
  | .sb rt ra rb sv => encMem 0b00001000#8 rt ra rb (BitVec.ofNat 2 sv)
  | .lwBi rt ra rb sv => encMem 0b00000110#8 rt ra rb (BitVec.ofNat 2 sv)
  | .lhBi rt ra rb sv => encMem 0b00000101#8 rt ra rb (BitVec.ofNat 2 sv)
  | .lhsBi rt ra rb sv => encMem 0b00010101#8 rt ra rb (BitVec.ofNat 2 sv)
  | .lbBi rt ra rb sv => encMem 0b00000100#8 rt ra rb (BitVec.ofNat 2 sv)
  | .lbsBi rt ra rb sv => encMem 0b00010100#8 rt ra rb (BitVec.ofNat 2 sv)
  | .swBi rt ra rb sv => encMem 0b00001110#8 rt ra rb (BitVec.ofNat 2 sv)
  | .shBi rt ra rb sv => encMem 0b00001101#8 rt ra rb (BitVec.ofNat 2 sv)
  | .sbBi rt ra rb sv => encMem 0b00001100#8 rt ra rb (BitVec.ofNat 2 sv)
  | .j imm => encJi 0#1 imm
  | .jal imm => encJi 1#1 imm
  | .jr rb => encJreg 0b0000000000#10 0#5 rb
  | .ret rb => encJreg 0b0000100000#10 0#5 rb
  | .jral rt rb => encJreg 0b0000000001#10 rt rb
  | .jralLp rb => encJreg 0b0000000001#10 p.lpIndex rb
  | .beq rt ra imm => encBr1 0#1 rt ra imm
  | .bne rt ra imm => encBr1 1#1 rt ra imm
  | .beqz rt imm => encBr2 0b0010#4 rt imm
  | .bnez rt imm => encBr2 0b0011#4 rt imm
  | .bgez rt imm => encBr2 0b0100#4 rt imm
  | .bltz rt imm => encBr2 0b0101#4 rt imm
  | .bgtz rt imm => encBr2 0b0110#4 rt imm
  | .blez rt imm => encBr2 0b0111#4 rt imm
  | .bgezal rt imm => encBr2 0b1100#4 rt imm
  | .bltzal rt imm => encBr2 0b1101#4 rt imm
  | .addi rt ra imm => encI15 0b101000#6 rt ra imm
  | .subri rt ra imm => encI15 0b101001#6 rt ra imm
  | .andi rt ra imm => encI15 0b101010#6 rt ra imm
  | .ori rt ra imm => encI15 0b101100#6 rt ra imm
  | .xori rt ra imm => encI15 0b101011#6 rt ra imm
  | .slti rt ra imm => encI15 0b101110#6 rt ra imm
  | .sltsi rt ra imm => encI15 0b101111#6 rt ra imm
  | .movi rt imm => encI20 0b100010#6 rt imm
  | .sethi rt imm => encI20 0b100011#6 rt imm
  | .add rt ra rb => encAlu1 0b00000#5 rt ra rb
  | .sub rt ra rb => encAlu1 0b00001#5 rt ra rb
  | .and rt ra rb => encAlu1 0b00010#5 rt ra rb
  | .nor rt ra rb => encAlu1 0b00101#5 rt ra rb
  | .or rt ra rb => encAlu1 0b00100#5 rt ra rb
  | .xor rt ra rb => encAlu1 0b00011#5 rt ra rb
  | .slt rt ra rb => encAlu1 0b00110#5 rt ra rb
  | .slts rt ra rb => encAlu1 0b00111#5 rt ra rb
  | .sva rt ra rb => encAlu1 0b11000#5 rt ra rb
  | .svs rt ra rb => encAlu1 0b11001#5 rt ra rb
  | .seb rt ra => encAlu1 0b10000#5 rt ra 0#5
  | .seh rt ra => encAlu1 0b10001#5 rt ra 0#5
  | .zeb rt ra => encI15 0b101010#6 rt ra 0xFF#15
  | .zeh rt ra => encAlu1 0b10011#5 rt ra 0#5
  | .wsbh rt ra => encAlu1 0b10100#5 rt ra 0#5
  | .slli rt ra imm => encAlu1 0b01000#5 rt ra imm
  | .srli rt ra imm => encAlu1 0b01001#5 rt ra imm
  | .srai rt ra imm => encAlu1 0b01010#5 rt ra imm
  | .rotri rt ra imm => encAlu1 0b01011#5 rt ra imm
  | .sll rt ra rb => encAlu1 0b01100#5 rt ra rb
  | .srl rt ra rb => encAlu1 0b01101#5 rt ra rb
  | .sra rt ra rb => encAlu1 0b01110#5 rt ra rb
  | .rotr rt ra rb => encAlu1 0b01111#5 rt ra rb
  | .mul rt ra rb => encAlu2 0b100100#6 rt ra rb
  | .mults64 d ra rb => encD3 0b101000#6 (BitVec.ofNat 1 d) ra rb
  | .mult64 d ra rb => encD3 0b101001#6 (BitVec.ofNat 1 d) ra rb
  | .madds64 d ra rb => encD3 0b101010#6 (BitVec.ofNat 1 d) ra rb
  | .madd64 d ra rb => encD3 0b101011#6 (BitVec.ofNat 1 d) ra rb
  | .msubs64 d ra rb => encD3 0b101100#6 (BitVec.ofNat 1 d) ra rb
  | .msub64 d ra rb => encD3 0b101101#6 (BitVec.ofNat 1 d) ra rb
  | .mult32 d ra rb => encD3 0b110001#6 (BitVec.ofNat 1 d) ra rb
  | .madd32 d ra rb => encD3 0b110011#6 (BitVec.ofNat 1 d) ra rb
  | .msub32 d ra rb => encD3 0b110101#6 (BitVec.ofNat 1 d) ra rb
  | .mfusr rt u => encUsr 0b100000#6 rt u
  | .mtusr rt u => encUsr 0b100001#6 rt u
  | .div d ra rb => encD3 0b101111#6 (BitVec.ofNat 1 d) ra rb
  | .divs d ra rb => encD3 0b101110#6 (BitVec.ofNat 1 d) ra rb
  | .cmovz rt ra rb => encAlu1 0b11010#5 rt ra rb
  | .cmovn rt ra rb => encAlu1 0b11011#5 rt ra rb
  | .dsb => encMisc 0b01000#5 0#20
  | .isb => encMisc 0b01001#5 0#20
  | .brk k => encMisc 0b01010#5 (0#5 ++ k)
  | .syscall k => encMisc 0b01011#5 (0#5 ++ k)
  | .trap k => encMisc 0b00101#5 (0#5 ++ k)
  | .teqz rc k => encMisc 0b00110#5 (rc ++ k)
  | .tnez rc k => encMisc 0b00111#5 (rc ++ k)
  | .iret => encMisc 0b00100#5 0#20
  | .retItoff rb => encJreg 0b0100100000#10 0#5 rb
  | .retToff rb => encJreg 0b1100100000#10 0#5 rb
  | .cctl ops => encMisc 0b00001#5 ops
  | .setendB => 0x64120023#32
  | .setendL => 0x64020023#32
  | .setgieE => 0x64120043#32
  | .setgieD => 0x64020043#32
  | .standby k => encMisc 0b00000#5 (0#18 ++ k)

/-- The provisional encoding has a word for the instruction: its operand `sv` fits two bits (R97), its operand `d` one
(R96). Every other operand fits its field by its type. -/
def Instr.encodable : Instr → Bool
  | .lw _ _ _ sv | .lh _ _ _ sv | .lhs _ _ _ sv | .lb _ _ _ sv | .lbs _ _ _ sv
  | .sw _ _ _ sv | .sh _ _ _ sv | .sb _ _ _ sv
  | .lwBi _ _ _ sv | .lhBi _ _ _ sv | .lhsBi _ _ _ sv | .lbBi _ _ _ sv | .lbsBi _ _ _ sv
  | .swBi _ _ _ sv | .shBi _ _ _ sv | .sbBi _ _ _ sv => decide (sv < 2 ^ 2)
  | .mults64 k _ _ | .mult64 k _ _ | .madds64 k _ _ | .madd64 k _ _ | .msubs64 k _ _ | .msub64 k _ _
  | .mult32 k _ _ | .madd32 k _ _ | .msub32 k _ _ | .div k _ _ | .divs k _ _ => decide (k < 2 ^ 1)
  | .mfsr _ _ | .mtsr _ _ | .mfusr _ _ | .mtusr _ _
  | .lwi _ _ _ | .lhi _ _ _ | .lhsi _ _ _ | .lbi _ _ _ | .lbsi _ _ _ | .swi _ _ _ | .shi _ _ _ | .sbi _ _ _
  | .lwiBi _ _ _ | .lhiBi _ _ _ | .lhsiBi _ _ _ | .lbiBi _ _ _ | .lbsiBi _ _ _
  | .swiBi _ _ _ | .shiBi _ _ _ | .sbiBi _ _ _
  | .j _ | .jal _ | .jr _ | .ret _ | .jral _ _ | .jralLp _
  | .beq _ _ _ | .bne _ _ _ | .beqz _ _ | .bnez _ _ | .bgez _ _ | .bltz _ _ | .bgtz _ _ | .blez _ _
  | .bgezal _ _ | .bltzal _ _
  | .addi _ _ _ | .subri _ _ _ | .andi _ _ _ | .ori _ _ _ | .xori _ _ _ | .slti _ _ _ | .sltsi _ _ _
  | .movi _ _ | .sethi _ _
  | .add _ _ _ | .sub _ _ _ | .and _ _ _ | .nor _ _ _ | .or _ _ _ | .xor _ _ _ | .slt _ _ _ | .slts _ _ _
  | .sva _ _ _ | .svs _ _ _ | .seb _ _ | .seh _ _ | .zeb _ _ | .zeh _ _ | .wsbh _ _
  | .slli _ _ _ | .srli _ _ _ | .srai _ _ _ | .rotri _ _ _ | .sll _ _ _ | .srl _ _ _ | .sra _ _ _ | .rotr _ _ _
  | .mul _ _ _ | .cmovz _ _ _ | .cmovn _ _ _
  | .dsb | .isb | .brk _ | .syscall _ | .trap _ | .teqz _ _ | .tnez _ _
  | .iret | .retItoff _ | .retToff _ | .cctl _ | .setendB | .setendL | .setgieE | .setgieD | .standby _ => true

/-- The word of an instruction, where the provisional encoding has one (log entry 28). -/
def Instr.word (p : Params) (i : Instr) : Option Word := if i.encodable then some (i.encode p) else none

/-- The instruction a decoder reports for the word of `i`: `andi` for `zeb` (R106), two-operand `jral` for the
one-operand form (R107), else `i` itself. -/
def Instr.canonical (p : Params) (i : Instr) : Instr :=
  match i with
  | .zeb rt ra => .andi rt ra 0xFF#15
  | .jralLp rb => .jral p.lpIndex rb
  | _ => i

end Sys2Proof
end

