-- ==== Sys2Proof/Machine/Flags.lean ====
section
/-! DEFINITION. The ISA has no condition flags (spec/10_state.md R28). What other machines keep in flags is written to a
general register as 0 or 1 (spec/44_alu.md R207): comparisons and signed overflow. -/

namespace Sys2Proof.Machine

/-- `0x00000001` or `0x00000000` (R207). -/
def flagWord (b : Bool) : Word := if b then 1#32 else 0#32

/-- `u(a) < u(b)` (R185, R196). -/
def unsignedLess (a b : Word) : Bool := decide (a.toNat < b.toNat)

/-- `s(a) < s(b)` (R186, R197). -/
def signedLess (a b : Word) : Bool := decide (a.toInt < b.toInt)

/-- An exact integer lies outside -2^31 .. 2^31 - 1 (R198, R199; D14, log entry 29). -/
def outsideSigned32 (n : Int) : Bool := decide (n < -2 ^ 31) || decide (2 ^ 31 - 1 < n)

/-- Signed overflow of the sum (R198). -/
def addOverflows (a b : Word) : Bool := outsideSigned32 (a.toInt + b.toInt)

/-- Signed overflow of the difference (R199). -/
def subOverflows (a b : Word) : Bool := outsideSigned32 (a.toInt - b.toInt)

/-- `x = 0` on all 32 bits (R167, R240, R250). -/
def isZero (a : Word) : Bool := decide (a = 0#32)

/-- `s(x) >= 0` (R169). -/
def isNonNegative (a : Word) : Bool := decide (0 ≤ a.toInt)

/-- `s(x) > 0` (R171). -/
def isPositive (a : Word) : Bool := decide (0 < a.toInt)

end Sys2Proof.Machine
end

