-- ==== Sys2Proof/Machine/Operands.lean ====
section
/-! DEFINITION. Operand forms (spec/30_encoding.md R83 to R88): immediates, scaled offsets, shift amounts, and the
shift and byte operations the rules name (spec/45_shift.md R219, spec/44_alu.md). -/

namespace Sys2Proof.Machine

/-- `sext_32(imm << k)`: the shift widens the field by k bits, then the sign is extended (R83, R84). -/
def scaled {w : Nat} (imm : BitVec w) (k : Nat) : Word := (imm ++ 0#k).signExtend 32

/-- `SE(imm15s)` (R85). -/
def simm15 (imm : BitVec 15) : Word := imm.signExtend 32

/-- `ZE(imm15u)` (R85). -/
def zimm15 (imm : BitVec 15) : Word := imm.setWidth 32

/-- `SE(imm20s)` of `movi` (R86). -/
def simm20 (imm : BitVec 20) : Word := imm.signExtend 32

/-- `{imm20u, 12'b0}` of `sethi` (R86). -/
def highImm20 (imm : BitVec 20) : Word := imm ++ 0#12

/-- `lsl(v, n)` (R219). -/
def lsl (v : Word) (n : Nat) : Word := v <<< n

/-- `lsr(v, n)` (R219). -/
def lsr (v : Word) (n : Nat) : Word := v >>> n

/-- `asr(v, n)` (R219). -/
def asr (v : Word) (n : Nat) : Word := v.sshiftRight n

/-- `ror(v, n)` (R219). -/
def ror (v : Word) (n : Nat) : Word := if n = 0 then v else lsr v n ||| lsl v (32 - n)

/-- The amount of a register shift, bits 4:0 (R218). -/
def shiftAmount (v : Word) : Nat := (v.extractLsb' 0 5).toNat

/-- The index of a register-offset access, `lsl(x[rb], sv)` (R156). -/
def scaledIndex (v : Word) (sv : Nat) : Word := lsl v sv

/-- `sext_32` of the low byte (R200). -/
def signByte (v : Word) : Word := (v.setWidth 8).signExtend 32

/-- `sext_32` of the low halfword (R201). -/
def signHalf (v : Word) : Word := (v.setWidth 16).signExtend 32

/-- `zext_32` of the low byte (R202). -/
def zeroByte (v : Word) : Word := (v.setWidth 8).setWidth 32

/-- `zext_32` of the low halfword (R203). -/
def zeroHalf (v : Word) : Word := (v.setWidth 16).setWidth 32

/-- `{v[23:16], v[31:24], v[7:0], v[15:8]}` (R204). -/
def swapBytesInHalves (v : Word) : Word :=
  v.extractLsb' 16 8 ++ v.extractLsb' 24 8 ++ v.extractLsb' 0 8 ++ v.extractLsb' 8 8

/-- The size of an access (R57). -/
inductive Size where
  | byte
  | half
  | word
  deriving DecidableEq, Repr

/-- The number of bytes an access moves (R57). -/
def sizeBytes : Size → Nat
  | .byte => 1
  | .half => 2
  | .word => 4

/-- What a load writes to its register: the value read, zero- or sign-extended to 32 bits (R51, R121 to R124). -/
def extendLoaded (sz : Size) (signed : Bool) (v : Word) : Word :=
  match sz, signed with
  | .byte, false => zeroByte v
  | .byte, true => signByte v
  | .half, false => zeroHalf v
  | .half, true => signHalf v
  | .word, _ => v

/-- The value bytes make, the first the least significant (R51 with `PSW.BE` = 0). -/
def assembleLittle : List Byte → Word
  | [] => 0#32
  | b :: bs => b.setWidth 32 ||| (assembleLittle bs <<< 8)

/-- The value the bytes of an access make, in order of address (R51). -/
def assemble (big : Bool) (bs : List Byte) : Word := assembleLittle (if big then bs.reverse else bs)

/-- The low `n` bytes of a value, the least significant first (R52 with `PSW.BE` = 0). -/
def splitLittle : Nat → Word → List Byte
  | 0, _ => []
  | n + 1, v => v.setWidth 8 :: splitLittle n (v >>> 8)

/-- The bytes an access stores, in order of address (R52). -/
def split (big : Bool) (n : Nat) (v : Word) : List Byte :=
  if big then (splitLittle n v).reverse else splitLittle n v

/-- Bits 31:0 of a d register (R35). -/
def lowHalf (v : DWord) : Word := v.setWidth 32

/-- Bits 63:32 of a d register (R35). -/
def highHalf (v : DWord) : Word := v.extractLsb' 32 32

/-- `d.hi` and `d.lo` as one value (R35). -/
def joinHalves (hi lo : Word) : DWord := hi ++ lo

end Sys2Proof.Machine
end

