-- ==== Sys2Proof/Machine/Ops.lean ====
section
/-! DEFINITION. The named operations over registers and memory (spec/10_state.md, spec/20_memory.md), the outcomes
(spec/60_exceptions.md R280), and control transfer (spec/43_jump_branch.md R175 to R178). -/

namespace Sys2Proof.Machine

/-- What a meaning answers. -/
abbrev Out := Host.Outcome State Fault Refusal

/-! ### Registers -/

/-- `x[r]`: every register is ordinary, none is hard-wired (R20). -/
def State.reg (s : State) (r : RegIdx) : Word := s.gpr[r.toNat]'r.isLt

/-- `x[r] <- v` (R20). -/
def State.setReg (s : State) (r : RegIdx) (v : Word) : State := { s with gpr := s.gpr.set r.toNat v r.isLt }

/-- `LP <- v` (R22, R178). -/
def State.setLp (s : State) (v : Word) : State := s.setReg s.params.lpIndex v

/-- `d[k]` (R34). -/
def State.dreg (s : State) (k : Nat) : DWord := sparseRead s.d k

/-- `d[k] <- v` (R34). -/
def State.setDreg (s : State) (k : Nat) (v : DWord) : State := { s with d := sparseWrite s.d k v }

/-- `d[k].lo <- v`, the high half unchanged (R35, R236). -/
def State.setDlo (s : State) (k : Nat) (v : Word) : State := s.setDreg k (joinHalves (highHalf (s.dreg k)) v)

/-- `d[k].hi <- v`, the low half unchanged (R35, R231). -/
def State.setDhi (s : State) (k : Nat) (v : Word) : State := s.setDreg k (joinHalves v (lowHalf (s.dreg k)))

/-- `SR[n]`, for `n` other than `PSW_INDEX` (R29). -/
def State.sysReg (s : State) (n : SrIdx) : Word := sparseRead s.sr n.toNat

/-- `SR[n] <- v` (R29). -/
def State.setSysReg (s : State) (n : SrIdx) (v : Word) : State := { s with sr := sparseWrite s.sr n.toNat v }

/-- An opaque entry of `USReg[ ]` (R36). -/
def State.usrEntry (s : State) (u : UsrIdx) : Word := sparseRead s.usr u.toNat

/-- `USReg[u] <- v` for an opaque entry (R36). -/
def State.setUsrEntry (s : State) (u : UsrIdx) (v : Word) : State := { s with usr := sparseWrite s.usr u.toNat v }

/-- `USReg[u]`, whichever state the selector names (R37, R230). -/
def State.usrRead (s : State) (u : UsrIdx) : UsrTarget → Word
  | .half k .lo => lowHalf (s.dreg k)
  | .half k .hi => highHalf (s.dreg k)
  | .entry => s.usrEntry u

/-- `USReg[u] <- v`; where the selector names a half of a d register, the other half is unchanged (R231). -/
def State.usrWrite (s : State) (u : UsrIdx) (v : Word) : UsrTarget → State
  | .half k .lo => s.setDlo k v
  | .half k .hi => s.setDhi k v
  | .entry => s.setUsrEntry u v

/-- `pc <- t` (R11). -/
def State.setPc (s : State) (t : Word) : State := { s with pc := t }

/-- `pc <- pc + 4`, modulo 2^32 (R26). -/
def State.advance (s : State) : State := s.setPc (s.pc + 4#32)

/-- `PSW <- p` (R30). -/
def State.setPsw (s : State) (p : Psw) : State := { s with psw := p }

/-! ### PSW as a word (R111) -/

/-- Puts bit `b` at place `n`. -/
def putBit (w : Word) (n : Fin 32) (b : Bool) : Word :=
  if b then w ||| (1#32 <<< n.val) else w &&& ~~~(1#32 <<< n.val)

/-- The word `mfsr` reads at `PSW_INDEX`: the four fields at their places, elsewhere the unspecified `rest` (R111). -/
def packPsw (l : PswBits) (p : Psw) (rest : Word) : Word :=
  putBit (putBit (putBit (putBit rest l.be p.be) l.gie p.gie) l.it p.it) l.dt p.dt

/-- The four fields `mtsr` sets at `PSW_INDEX` (R111). -/
def unpackPsw (l : PswBits) (w : Word) : Psw where
  be := w.getLsbD l.be.val
  gie := w.getLsbD l.gie.val
  it := w.getLsbD l.it.val
  dt := w.getLsbD l.dt.val

/-! ### Outcomes -/

/-- TAKING AN EXCEPTION, as the spec describes it: the step does not complete, no register, memory byte or `pc` is
changed, and the run ends with the named outcome (R280, R285). The spec gives no entry: nothing is saved, no mode
changes and there is no handler address (R287; log entry 19). -/
def raise (e : Fault) : Out := .fault e

/-- `refuse(reason)`: the same, for a case the spec gives no meaning (R280). -/
def refuse (r : Refusal) : Out := .refused r

/-- The word `NotAnInstruction` carries: at the binary level that of the instruction, at the assembly level none (R100;
log entry 41). -/
def State.wordOf (s : State) (i : Instr) : Option Word :=
  match s.params.program with
  | .binary => i.word s.params
  | .assembly _ => none

/-- The instruction is none of the spec's: an operand is outside its range or its selector is in no set of the parameters
(R100, R110, R230). -/
def notAnInstruction (i : Instr) (s : State) : Out := raise (.notAnInstruction s.pc (s.wordOf i))

/-- The check of R100 that comes before every other outcome but the fetch's (R286): `o` where the instruction is
well-formed. -/
def ifWellFormed (i : Instr) (s : State) (o : Out) : Out := if i.wellFormed s.params then o else notAnInstruction i s

/-- RETURNING FROM AN EXCEPTION: the spec does not say what is restored and refuses it (R260, R288; log entry 22). -/
def returnFromInterruption : Out := refuse (.unmodelled .iret)

/-! ### Memory -/

/-- The byte stored at an address. -/
def State.byteAt (s : State) (a : Word) : Byte := sparseRead s.mem a.toNat

/-- The bytes at `a`, `a + 1`, ..., modulo 2^32 (R51). -/
def readBytes (m : Memory) : Word → Nat → List Byte
  | _, 0 => []
  | a, n + 1 => sparseRead m a.toNat :: readBytes m (a + 1#32) n

/-- Stores bytes at `a`, `a + 1`, ..., modulo 2^32 (R52). -/
def writeBytes (m : Memory) : Word → List Byte → Memory
  | _, [] => m
  | a, b :: bs => writeBytes (sparseWrite m a.toNat b) (a + 1#32) bs

/-- The lowest of the `n` bytes at `a`, `a + 1`, ... that `ok` does not admit (R286(8)). -/
def firstBad (ok : Nat → Bool) : Word → Nat → Option Word
  | _, 0 => none
  | a, n + 1 => if ok a.toNat then firstBad ok (a + 1#32) n else some a

/-- The address an access at `a` reaches: `TRANSLATE` where the PSW bit of the kind is 1, else `a` (R61). -/
def State.translate (s : State) (kind : AccessKind) (a : Word) : Option Word :=
  let on := match kind with
    | .fetch => s.psw.it
    | .data => s.psw.dt
  if on then s.params.translateAt kind a else some a

/-- The address an instruction is fetched at (R61, R313). -/
def State.fetchAddress (s : State) : Word := (s.translate .fetch s.pc).getD s.pc

/-- A store may write the byte: it is allocated (R60) and, at the binary level, no instruction is or may later be fetched
from it (R67): it is no program text, and `State.fetchWord` fetches from nothing else. At the assembly level program text
is no part of memory (R67, D35). -/
def State.storable (s : State) (a : Nat) : Bool :=
  match s.params.program with
  | .assembly _ => s.params.loadable a
  | .binary => s.params.storable a

/-- The address is a multiple of the access size (R55). -/
def aligned (a : Word) (sz : Size) : Bool := decide (a.toNat % sizeBytes sz = 0)

/-- The checks of a data access in the order of R137 and R286: alignment, translation, allocation. Answers the address
reached. -/
def State.checkData (s : State) (ok : Nat → Bool) (a : Word) (sz : Size) : Except Fault Word :=
  if aligned a sz then
    match s.translate .data a with
    | none => .error (.translationFault .data a)
    | some p =>
      match firstBad ok p (sizeBytes sz) with
      | some b => .error (.accessFault b)
      | none => .ok p
  else .error (.dataMisaligned a (sizeBytes sz))

/-- `MemRead(a, n)` (R51), zero-extended to 32 bits. -/
def State.memRead (s : State) (a : Word) (sz : Size) : Except Fault Word :=
  match s.checkData s.params.loadable a sz with
  | .error f => .error f
  | .ok p => .ok (assemble s.psw.be (readBytes s.mem p (sizeBytes sz)))

/-- The memory after `n`-byte value `v` is stored at `p` in the byte order of `PSW.BE` (R52). -/
def State.storeBytes (s : State) (p : Word) (sz : Size) (v : Word) : State :=
  { s with mem := writeBytes s.mem p (split s.psw.be (sizeBytes sz) v) }

/-- `MemWrite(a, n, v)` (R52), `v` the low bytes of the word. -/
def State.memWrite (s : State) (a : Word) (sz : Size) (v : Word) : Except Fault State :=
  match s.checkData s.storable a sz with
  | .error f => .error f
  | .ok p => .ok (s.storeBytes p sz v)

/-! ### Shared shapes of meanings -/

/-- Writes `x[rt]` and advances: every register result. -/
def writeReg (rt : RegIdx) (v : Word) (s : State) : Out := .next (s.setReg rt v).advance

/-- Writes `d[k]` and advances. -/
def writeDreg (k : Nat) (v : DWord) (s : State) : Out := .next (s.setDreg k v).advance

/-- A load at `a` (R137): read, write `x[rt]`, advance. -/
def loadAt (sz : Size) (signed : Bool) (rt : RegIdx) (a : Word) (s : State) : Out :=
  match s.memRead a sz with
  | .error f => raise f
  | .ok v => .next (s.setReg rt (extendLoaded sz signed v)).advance

/-- A post-increment load (R137): the access is at `x[ra]`; then `x[rt]` and `x[ra]` are written. -/
def loadPost (sz : Size) (signed : Bool) (rt ra : RegIdx) (inc : Word) (s : State) : Out :=
  match s.memRead (s.reg ra) sz with
  | .error f => raise f
  | .ok v => .next ((s.setReg rt (extendLoaded sz signed v)).setReg ra (s.reg ra + inc)).advance

/-- A post-increment load with immediate; `rt5 = ra5` has no meaning (R138). -/
def loadPostImm (sz : Size) (signed : Bool) (rt ra : RegIdx) (inc : Word) (s : State) : Out :=
  if rt = ra then refuse (.operandOverlap .rtRa) else loadPost sz signed rt ra inc s

/-- A post-increment load with register offset; `rt5 = ra5` and `rt5 = rb5` have no meaning (R158). -/
def loadPostReg (sz : Size) (signed : Bool) (rt ra rb : RegIdx) (inc : Word) (s : State) : Out :=
  if rt = ra then refuse (.operandOverlap .rtRa)
  else if rt = rb then refuse (.operandOverlap .rtRb)
  else loadPost sz signed rt ra inc s

/-- A store of `x[rt]` at `a` (R137). -/
def storeAt (sz : Size) (rt : RegIdx) (a : Word) (s : State) : Out :=
  match s.memWrite a sz (s.reg rt) with
  | .error f => raise f
  | .ok s' => .next s'.advance

/-- A post-increment store (R137, R139): the old `x[rt]` is stored at the old `x[ra]`, then `x[ra]` is written. -/
def storePost (sz : Size) (rt ra : RegIdx) (inc : Word) (s : State) : Out :=
  match s.memWrite (s.reg ra) sz (s.reg rt) with
  | .error f => raise f
  | .ok s' => .next (s'.setReg ra (s.reg ra + inc)).advance

/-- `pc <- t`, or `InstructionMisaligned(t)` where bit 0 of `t` is 1 (R177). `s` is the state with every other write of
the instruction made, and is dropped where the transfer raises. -/
def transferTo (t : Word) (s : State) : Out :=
  if t.getLsbD 0 then raise (.instructionMisaligned t) else .next (s.setPc t)

/-- The target of a PC-relative transfer (R175). -/
def pcRelative {w : Nat} (imm : BitVec w) (s : State) : Word := s.pc + scaled imm 1

/-- A conditional branch (R177): a branch not taken goes to `pc + 4` and never raises. -/
def branchIf {w : Nat} (c : Bool) (imm : BitVec w) (s : State) : Out :=
  if c then transferTo (pcRelative imm s) s else .next s.advance

/-- A linking branch (R173, R174, R178): `LP` is written whether or not the branch is taken; `rt5 = LP_INDEX` has no
meaning (R24(c)). -/
def branchLinkIf (c : Bool) (rt : RegIdx) (imm : BitVec 16) (s : State) : Out :=
  if rt = s.params.lpIndex then refuse (.operandOverlap .rtLp)
  else if c then transferTo (pcRelative imm s) (s.setLp (s.pc + 4#32))
  else .next (s.setLp (s.pc + 4#32)).advance

/-- `teqz`, `tnez` (R250, R251): refused where `TRAP_OPERANDS` is not fixed; else `Trap(pc)` is raised where the condition
holds, and nothing but the advance happens where it does not. -/
def trapIf (which : UnmodelledCase) (c : Bool) (swid : BitVec 15) (s : State) : Out :=
  match s.params.trapOperands with
  | .notFixed => refuse (.unmodelled which)
  | .fixed => if c then raise (.trap s.pc (s.params.eventData swid)) else .next s.advance

end Sys2Proof.Machine
end

