-- ==== Sys2Proof/Machine/Alu.lean ====
section
/-! DEFINITION. Arithmetic and logic (spec/44_alu.md; R205 to R207). -/

namespace Sys2Proof.Machine

/-- `addi` (R180). -/
def execAddi (rt ra : RegIdx) (imm : BitVec 15) (s : State) : Out :=
  writeReg rt (s.reg ra + simm15 imm) s

/-- `subri` (R181). -/
def execSubri (rt ra : RegIdx) (imm : BitVec 15) (s : State) : Out :=
  writeReg rt (simm15 imm - s.reg ra) s

/-- `andi` (R182). -/
def execAndi (rt ra : RegIdx) (imm : BitVec 15) (s : State) : Out :=
  writeReg rt (s.reg ra &&& zimm15 imm) s

/-- `ori` (R183). -/
def execOri (rt ra : RegIdx) (imm : BitVec 15) (s : State) : Out :=
  writeReg rt (s.reg ra ||| zimm15 imm) s

/-- `xori` (R184). -/
def execXori (rt ra : RegIdx) (imm : BitVec 15) (s : State) : Out :=
  writeReg rt (s.reg ra ^^^ zimm15 imm) s

/-- `slti` (R185). -/
def execSlti (rt ra : RegIdx) (imm : BitVec 15) (s : State) : Out :=
  writeReg rt (flagWord (unsignedLess (s.reg ra) (simm15 imm))) s

/-- `sltsi` (R186). -/
def execSltsi (rt ra : RegIdx) (imm : BitVec 15) (s : State) : Out :=
  writeReg rt (flagWord (signedLess (s.reg ra) (simm15 imm))) s

/-- `movi` (R187). -/
def execMovi (rt : RegIdx) (imm : BitVec 20) (s : State) : Out := writeReg rt (simm20 imm) s

/-- `sethi` (R188). -/
def execSethi (rt : RegIdx) (imm : BitVec 20) (s : State) : Out := writeReg rt (highImm20 imm) s

/-- `add` (R190). -/
def execAdd (rt ra rb : RegIdx) (s : State) : Out :=
  writeReg rt (s.reg ra + s.reg rb) s

/-- `sub` (R191). -/
def execSub (rt ra rb : RegIdx) (s : State) : Out :=
  writeReg rt (s.reg ra - s.reg rb) s

/-- `and` (R192). -/
def execAnd (rt ra rb : RegIdx) (s : State) : Out :=
  writeReg rt (s.reg ra &&& s.reg rb) s

/-- `nor` (R193). -/
def execNor (rt ra rb : RegIdx) (s : State) : Out :=
  writeReg rt (~~~(s.reg ra ||| s.reg rb)) s

/-- `or` (R194). -/
def execOr (rt ra rb : RegIdx) (s : State) : Out :=
  writeReg rt (s.reg ra ||| s.reg rb) s

/-- `xor` (R195). -/
def execXor (rt ra rb : RegIdx) (s : State) : Out :=
  writeReg rt (s.reg ra ^^^ s.reg rb) s

/-- `slt` (R196). -/
def execSlt (rt ra rb : RegIdx) (s : State) : Out :=
  writeReg rt (flagWord (unsignedLess (s.reg ra) (s.reg rb))) s

/-- `slts` (R197). -/
def execSlts (rt ra rb : RegIdx) (s : State) : Out :=
  writeReg rt (flagWord (signedLess (s.reg ra) (s.reg rb))) s

/-- `sva` (R198). -/
def execSva (rt ra rb : RegIdx) (s : State) : Out :=
  writeReg rt (flagWord (addOverflows (s.reg ra) (s.reg rb))) s

/-- `svs` (R199). -/
def execSvs (rt ra rb : RegIdx) (s : State) : Out :=
  writeReg rt (flagWord (subOverflows (s.reg ra) (s.reg rb))) s

/-- `seb` (R200). -/
def execSeb (rt ra : RegIdx) (s : State) : Out := writeReg rt (signByte (s.reg ra)) s

/-- `seh` (R201). -/
def execSeh (rt ra : RegIdx) (s : State) : Out := writeReg rt (signHalf (s.reg ra)) s

/-- `zeb` (R202), the alias of `andi rt5, ra5, 0xFF` (R106). -/
def execZeb (rt ra : RegIdx) (s : State) : Out := writeReg rt (zeroByte (s.reg ra)) s

/-- `zeh` (R203). -/
def execZeh (rt ra : RegIdx) (s : State) : Out := writeReg rt (zeroHalf (s.reg ra)) s

/-- `wsbh` (R204). -/
def execWsbh (rt ra : RegIdx) (s : State) : Out := writeReg rt (swapBytesInHalves (s.reg ra)) s

end Sys2Proof.Machine
end

