-- ==== Sys2Proof/Machine/Branch.lean ====
section
/-! DEFINITION. Branches (spec/43_jump_branch.md R165 to R174, R175 to R178). -/

namespace Sys2Proof.Machine

/-- `beq` (R165). -/
def execBeq (rt ra : RegIdx) (imm : BitVec 14) (s : State) : Out := branchIf (decide (s.reg rt = s.reg ra)) imm s

/-- `bne` (R166). -/
def execBne (rt ra : RegIdx) (imm : BitVec 14) (s : State) : Out := branchIf (!decide (s.reg rt = s.reg ra)) imm s

/-- `beqz` (R167). -/
def execBeqz (rt : RegIdx) (imm : BitVec 16) (s : State) : Out := branchIf (isZero (s.reg rt)) imm s

/-- `bnez` (R168). -/
def execBnez (rt : RegIdx) (imm : BitVec 16) (s : State) : Out := branchIf (!isZero (s.reg rt)) imm s

/-- `bgez` (R169). -/
def execBgez (rt : RegIdx) (imm : BitVec 16) (s : State) : Out := branchIf (isNonNegative (s.reg rt)) imm s

/-- `bltz` (R170). -/
def execBltz (rt : RegIdx) (imm : BitVec 16) (s : State) : Out := branchIf (!isNonNegative (s.reg rt)) imm s

/-- `bgtz` (R171). -/
def execBgtz (rt : RegIdx) (imm : BitVec 16) (s : State) : Out := branchIf (isPositive (s.reg rt)) imm s

/-- `blez` (R172). -/
def execBlez (rt : RegIdx) (imm : BitVec 16) (s : State) : Out := branchIf (!isPositive (s.reg rt)) imm s

/-- `bgezal` (R173). -/
def execBgezal (rt : RegIdx) (imm : BitVec 16) (s : State) : Out :=
  branchLinkIf (isNonNegative (s.reg rt)) rt imm s

/-- `bltzal` (R174). -/
def execBltzal (rt : RegIdx) (imm : BitVec 16) (s : State) : Out :=
  branchLinkIf (!isNonNegative (s.reg rt)) rt imm s

end Sys2Proof.Machine
end

