-- ==== Sys2Proof/Machine/CondMove.lean ====
section
/-! DEFINITION. Conditional moves (spec/47_conditional_move.md; R242). -/

namespace Sys2Proof.Machine

/-- Writes `x[rt]` where the condition holds; advances either way (R242). -/
def moveIf (c : Bool) (rt : RegIdx) (v : Word) (s : State) : Out :=
  if c then writeReg rt v s else .next s.advance

/-- `cmovz` (R240). -/
def execCmovz (rt ra rb : RegIdx) (s : State) : Out := moveIf (isZero (s.reg rb)) rt (s.reg ra) s

/-- `cmovn` (R241). -/
def execCmovn (rt ra rb : RegIdx) (s : State) : Out := moveIf (!isZero (s.reg rb)) rt (s.reg ra) s

end Sys2Proof.Machine
end

