-- ==== Sys2Proof/Machine/Jump.lean ====
section
/-! DEFINITION. Jumps (spec/43_jump_branch.md R160 to R164, R175 to R178). -/

namespace Sys2Proof.Machine

/-- `j` (R160). -/
def execJ (imm : BitVec 24) (s : State) : Out := transferTo (pcRelative imm s) s

/-- `jal` (R161). -/
def execJal (imm : BitVec 24) (s : State) : Out := transferTo (pcRelative imm s) (s.setLp (s.pc + 4#32))

/-- `jr` (R162). -/
def execJr (rb : RegIdx) (s : State) : Out := transferTo (s.reg rb) s

/-- `ret` (R163): as `jr` (R101). -/
def execRet (rb : RegIdx) (s : State) : Out := transferTo (s.reg rb) s

/-- `jral rt5, rb5` (R164): the target is read before the link is written. -/
def execJral (rt rb : RegIdx) (s : State) : Out := transferTo (s.reg rb) (s.setReg rt (s.pc + 4#32))

/-- `jral rb5` (R164, R107): the link register is `LP`. -/
def execJralLp (rb : RegIdx) (s : State) : Out := transferTo (s.reg rb) (s.setLp (s.pc + 4#32))

end Sys2Proof.Machine
end

