-- ==== Sys2Proof/Machine/LoadStoreImm.lean ====
section
/-! DEFINITION. Loads and stores with immediate offset (spec/41_load_store_immediate.md; R136 to R139). -/

namespace Sys2Proof.Machine

/-- `lwi` (R120). -/
def execLwi (rt ra : RegIdx) (imm : BitVec 15) (s : State) : Out :=
  loadAt .word false rt (s.reg ra + scaled imm 2) s

/-- `lhi` (R121). -/
def execLhi (rt ra : RegIdx) (imm : BitVec 15) (s : State) : Out :=
  loadAt .half false rt (s.reg ra + scaled imm 1) s

/-- `lhsi` (R122). -/
def execLhsi (rt ra : RegIdx) (imm : BitVec 15) (s : State) : Out :=
  loadAt .half true rt (s.reg ra + scaled imm 1) s

/-- `lbi` (R123). -/
def execLbi (rt ra : RegIdx) (imm : BitVec 15) (s : State) : Out :=
  loadAt .byte false rt (s.reg ra + scaled imm 0) s

/-- `lbsi` (R124). -/
def execLbsi (rt ra : RegIdx) (imm : BitVec 15) (s : State) : Out :=
  loadAt .byte true rt (s.reg ra + scaled imm 0) s

/-- `swi` (R125). -/
def execSwi (rt ra : RegIdx) (imm : BitVec 15) (s : State) : Out :=
  storeAt .word rt (s.reg ra + scaled imm 2) s

/-- `shi` (R126). -/
def execShi (rt ra : RegIdx) (imm : BitVec 15) (s : State) : Out :=
  storeAt .half rt (s.reg ra + scaled imm 1) s

/-- `sbi` (R127). -/
def execSbi (rt ra : RegIdx) (imm : BitVec 15) (s : State) : Out :=
  storeAt .byte rt (s.reg ra + scaled imm 0) s

/-- `lwi.bi` (R128). -/
def execLwiBi (rt ra : RegIdx) (imm : BitVec 15) (s : State) : Out :=
  loadPostImm .word false rt ra (scaled imm 2) s

/-- `lhi.bi` (R129). -/
def execLhiBi (rt ra : RegIdx) (imm : BitVec 15) (s : State) : Out :=
  loadPostImm .half false rt ra (scaled imm 1) s

/-- `lhsi.bi` (R130). -/
def execLhsiBi (rt ra : RegIdx) (imm : BitVec 15) (s : State) : Out :=
  loadPostImm .half true rt ra (scaled imm 1) s

/-- `lbi.bi` (R131). -/
def execLbiBi (rt ra : RegIdx) (imm : BitVec 15) (s : State) : Out :=
  loadPostImm .byte false rt ra (scaled imm 0) s

/-- `lbsi.bi` (R132). -/
def execLbsiBi (rt ra : RegIdx) (imm : BitVec 15) (s : State) : Out :=
  loadPostImm .byte true rt ra (scaled imm 0) s

/-- `swi.bi` (R133). -/
def execSwiBi (rt ra : RegIdx) (imm : BitVec 15) (s : State) : Out :=
  storePost .word rt ra (scaled imm 2) s

/-- `shi.bi` (R134). -/
def execShiBi (rt ra : RegIdx) (imm : BitVec 15) (s : State) : Out :=
  storePost .half rt ra (scaled imm 1) s

/-- `sbi.bi` (R135). -/
def execSbiBi (rt ra : RegIdx) (imm : BitVec 15) (s : State) : Out :=
  storePost .byte rt ra (scaled imm 0) s

end Sys2Proof.Machine
end

