-- ==== Sys2Proof/Machine/LoadStoreReg.lean ====
section
/-! DEFINITION. Loads and stores with register offset (spec/42_load_store_register.md; R156 to R159).
Each asks first that `sv` has `SV_BITS` bits (R87, R100). -/

namespace Sys2Proof.Machine

/-- `lw` (R140). -/
def execLw (rt ra rb : RegIdx) (sv : Nat) (s : State) : Out :=
  ifWellFormed (.lw rt ra rb sv) s (loadAt .word false rt (s.reg ra + scaledIndex (s.reg rb) sv) s)

/-- `lh` (R141). -/
def execLh (rt ra rb : RegIdx) (sv : Nat) (s : State) : Out :=
  ifWellFormed (.lh rt ra rb sv) s (loadAt .half false rt (s.reg ra + scaledIndex (s.reg rb) sv) s)

/-- `lhs` (R142). -/
def execLhs (rt ra rb : RegIdx) (sv : Nat) (s : State) : Out :=
  ifWellFormed (.lhs rt ra rb sv) s (loadAt .half true rt (s.reg ra + scaledIndex (s.reg rb) sv) s)

/-- `lb` (R143). -/
def execLb (rt ra rb : RegIdx) (sv : Nat) (s : State) : Out :=
  ifWellFormed (.lb rt ra rb sv) s (loadAt .byte false rt (s.reg ra + scaledIndex (s.reg rb) sv) s)

/-- `lbs` (R144). -/
def execLbs (rt ra rb : RegIdx) (sv : Nat) (s : State) : Out :=
  ifWellFormed (.lbs rt ra rb sv) s (loadAt .byte true rt (s.reg ra + scaledIndex (s.reg rb) sv) s)

/-- `sw` (R145). -/
def execSw (rt ra rb : RegIdx) (sv : Nat) (s : State) : Out :=
  ifWellFormed (.sw rt ra rb sv) s (storeAt .word rt (s.reg ra + scaledIndex (s.reg rb) sv) s)

/-- `sh` (R146). -/
def execSh (rt ra rb : RegIdx) (sv : Nat) (s : State) : Out :=
  ifWellFormed (.sh rt ra rb sv) s (storeAt .half rt (s.reg ra + scaledIndex (s.reg rb) sv) s)

/-- `sb` (R147). -/
def execSb (rt ra rb : RegIdx) (sv : Nat) (s : State) : Out :=
  ifWellFormed (.sb rt ra rb sv) s (storeAt .byte rt (s.reg ra + scaledIndex (s.reg rb) sv) s)

/-- `lw.bi` (R148). -/
def execLwBi (rt ra rb : RegIdx) (sv : Nat) (s : State) : Out :=
  ifWellFormed (.lwBi rt ra rb sv) s (loadPostReg .word false rt ra rb (scaledIndex (s.reg rb) sv) s)

/-- `lh.bi` (R149). -/
def execLhBi (rt ra rb : RegIdx) (sv : Nat) (s : State) : Out :=
  ifWellFormed (.lhBi rt ra rb sv) s (loadPostReg .half false rt ra rb (scaledIndex (s.reg rb) sv) s)

/-- `lhs.bi` (R150). -/
def execLhsBi (rt ra rb : RegIdx) (sv : Nat) (s : State) : Out :=
  ifWellFormed (.lhsBi rt ra rb sv) s (loadPostReg .half true rt ra rb (scaledIndex (s.reg rb) sv) s)

/-- `lb.bi` (R151). -/
def execLbBi (rt ra rb : RegIdx) (sv : Nat) (s : State) : Out :=
  ifWellFormed (.lbBi rt ra rb sv) s (loadPostReg .byte false rt ra rb (scaledIndex (s.reg rb) sv) s)

/-- `lbs.bi` (R152). -/
def execLbsBi (rt ra rb : RegIdx) (sv : Nat) (s : State) : Out :=
  ifWellFormed (.lbsBi rt ra rb sv) s (loadPostReg .byte true rt ra rb (scaledIndex (s.reg rb) sv) s)

/-- `sw.bi` (R153). -/
def execSwBi (rt ra rb : RegIdx) (sv : Nat) (s : State) : Out :=
  ifWellFormed (.swBi rt ra rb sv) s (storePost .word rt ra (scaledIndex (s.reg rb) sv) s)

/-- `sh.bi` (R154). -/
def execShBi (rt ra rb : RegIdx) (sv : Nat) (s : State) : Out :=
  ifWellFormed (.shBi rt ra rb sv) s (storePost .half rt ra (scaledIndex (s.reg rb) sv) s)

/-- `sb.bi` (R155). -/
def execSbBi (rt ra rb : RegIdx) (sv : Nat) (s : State) : Out :=
  ifWellFormed (.sbBi rt ra rb sv) s (storePost .byte rt ra (scaledIndex (s.reg rb) sv) s)

end Sys2Proof.Machine
end

