-- ==== Sys2Proof/Machine/Misc.lean ====
section
/-! DEFINITION. Special returns, cache control, and the miscellaneous instructions (spec/49_return_cache_misc.md). -/

namespace Sys2Proof.Machine

/-- `iret` (R260). -/
def execIret (_s : State) : Out := returnFromInterruption

/-- `ret.itoff` (R261): on a misaligned target `PSW.IT` is not changed. -/
def execRetItoff (rb : RegIdx) (s : State) : Out := transferTo (s.reg rb) (s.setPsw { s.psw with it := false })

/-- `ret.toff` (R262). -/
def execRetToff (rb : RegIdx) (s : State) : Out :=
  transferTo (s.reg rb) (s.setPsw { s.psw with it := false, dt := false })

/-- `cctl` (R263): the spec names no operation of it (log entry 21). -/
def execCctl (_operands : BitVec 20) (_s : State) : Out := refuse (.unmodelled .cctl)

/-- `setend.b` (R264, R269). -/
def execSetendB (s : State) : Out := .next (s.setPsw { s.psw with be := true }).advance

/-- `setend.l` (R265). -/
def execSetendL (s : State) : Out := .next (s.setPsw { s.psw with be := false }).advance

/-- `setgie.e` (R266). -/
def execSetgieE (s : State) : Out := .next (s.setPsw { s.psw with gie := true }).advance

/-- `setgie.d` (R267). -/
def execSetgieD (s : State) : Out := .next (s.setPsw { s.psw with gie := false }).advance

/-- `standby` (R268): the event, with no state changed (log entry 20). -/
def execStandby (wake : BitVec 2) (s : State) : Out := raise (.standby s.pc (s.params.eventData wake))

end Sys2Proof.Machine
end

