-- ==== Sys2Proof/Machine/MulDiv.lean ====
section
/-! DEFINITION. Multiply, multiply-accumulate, divide, and user special registers (spec/46_multiply_divide.md; R232,
R235, R236). Each that names a d register asks first that it is one of the `ND` (R34, R88, R100). -/

namespace Sys2Proof.Machine

/-- `s(a) * s(b)`, exact, as 64 bits (R221). -/
def signedProduct (a b : Word) : DWord := BitVec.ofInt 64 (a.toInt * b.toInt)

/-- `u(a) * u(b)`, exact, as 64 bits (R222). -/
def unsignedProduct (a b : Word) : DWord := BitVec.ofNat 64 (a.toNat * b.toNat)

/-- Writes `d[k].lo` and advances; the high half keeps its value (R236). -/
def writeDlo (k : Nat) (v : Word) (s : State) : Out := .next (s.setDlo k v).advance

/-- The signed quotient under `DIVS_ROUND` (R234). -/
def signedQuotient (m : DivsRound) (a b : Int) : Int :=
  match m with
  | .floor => Int.fdiv a b
  | .trunc => Int.tdiv a b

/-- The d register `div` writes for a divisor that is not 0: remainder high, quotient low (R233). -/
def unsignedDivide (a b : Word) : DWord :=
  let q := a.toNat / b.toNat
  joinHalves (BitVec.ofNat 32 (a.toNat - q * b.toNat)) (BitVec.ofNat 32 q)

/-- The d register `divs` writes for a defined division (R234). -/
def signedDivide (m : DivsRound) (a b : Word) : DWord :=
  let q := signedQuotient m a.toInt b.toInt
  joinHalves (BitVec.ofInt 32 (a.toInt - q * b.toInt)) (BitVec.ofInt 32 q)

/-- The operands of the one signed quotient that does not fit 32 bits (R235(b)). -/
def quotientOverflows (a b : Word) : Bool := decide (a = 0x80000000#32) && decide (b = 0xFFFFFFFF#32)

/-- `mul` (R220). -/
def execMul (rt ra rb : RegIdx) (s : State) : Out := writeReg rt (s.reg ra * s.reg rb) s

/-- `mults64` (R221). -/
def execMults64 (k : Nat) (ra rb : RegIdx) (s : State) : Out :=
  ifWellFormed (.mults64 k ra rb) s (writeDreg k (signedProduct (s.reg ra) (s.reg rb)) s)

/-- `mult64` (R222). -/
def execMult64 (k : Nat) (ra rb : RegIdx) (s : State) : Out :=
  ifWellFormed (.mult64 k ra rb) s (writeDreg k (unsignedProduct (s.reg ra) (s.reg rb)) s)

/-- `madds64` (R223). -/
def execMadds64 (k : Nat) (ra rb : RegIdx) (s : State) : Out :=
  ifWellFormed (.madds64 k ra rb) s (writeDreg k (s.dreg k + signedProduct (s.reg ra) (s.reg rb)) s)

/-- `madd64` (R224). -/
def execMadd64 (k : Nat) (ra rb : RegIdx) (s : State) : Out :=
  ifWellFormed (.madd64 k ra rb) s (writeDreg k (s.dreg k + unsignedProduct (s.reg ra) (s.reg rb)) s)

/-- `msubs64` (R225). -/
def execMsubs64 (k : Nat) (ra rb : RegIdx) (s : State) : Out :=
  ifWellFormed (.msubs64 k ra rb) s (writeDreg k (s.dreg k - signedProduct (s.reg ra) (s.reg rb)) s)

/-- `msub64` (R226). -/
def execMsub64 (k : Nat) (ra rb : RegIdx) (s : State) : Out :=
  ifWellFormed (.msub64 k ra rb) s (writeDreg k (s.dreg k - unsignedProduct (s.reg ra) (s.reg rb)) s)

/-- `mult32` (R227). -/
def execMult32 (k : Nat) (ra rb : RegIdx) (s : State) : Out :=
  ifWellFormed (.mult32 k ra rb) s (writeDlo k (s.reg ra * s.reg rb) s)

/-- `madd32` (R228). -/
def execMadd32 (k : Nat) (ra rb : RegIdx) (s : State) : Out :=
  ifWellFormed (.madd32 k ra rb) s (writeDlo k (lowHalf (s.dreg k) + s.reg ra * s.reg rb) s)

/-- `msub32` (R229). -/
def execMsub32 (k : Nat) (ra rb : RegIdx) (s : State) : Out :=
  ifWellFormed (.msub32 k ra rb) s (writeDlo k (lowHalf (s.dreg k) - s.reg ra * s.reg rb) s)

/-- `mfusr` (R230). -/
def execMfusr (rt : RegIdx) (u : UsrIdx) (s : State) : Out :=
  match s.params.usrTarget u with
  | none => notAnInstruction (.mfusr rt u) s
  | some t => writeReg rt (s.usrRead u t) s

/-- `mtusr` (R231). -/
def execMtusr (rt : RegIdx) (u : UsrIdx) (s : State) : Out :=
  match s.params.usrTarget u with
  | none => notAnInstruction (.mtusr rt u) s
  | some t => .next (s.usrWrite u (s.reg rt) t).advance

/-- `div` (R233, R235). -/
def execDiv (k : Nat) (ra rb : RegIdx) (s : State) : Out :=
  ifWellFormed (.div k ra rb) s <|
    if s.reg rb = 0#32 then refuse (.divideUndefined .zero)
    else writeDreg k (unsignedDivide (s.reg ra) (s.reg rb)) s

/-- `divs` (R234, R235). -/
def execDivs (k : Nat) (ra rb : RegIdx) (s : State) : Out :=
  ifWellFormed (.divs k ra rb) s <|
    if s.reg rb = 0#32 then refuse (.divideUndefined .zero)
    else if quotientOverflows (s.reg ra) (s.reg rb) then refuse (.divideUndefined .overflow)
    else writeDreg k (signedDivide s.params.divsRound (s.reg ra) (s.reg rb)) s

end Sys2Proof.Machine
end

