-- ==== Sys2Proof/Machine/Serialize.lean ====
section
/-! DEFINITION. Serialization, breakpoint, system call and trap (spec/48_serialization_trap.md; R252, R253). -/

namespace Sys2Proof.Machine

/-- `dsb` (R245): no effect but the advance, in a model whose instructions take effect in order (log entry 32). -/
def execDsb (s : State) : Out := .next s.advance

/-- `isb` (R246): as `dsb`. -/
def execIsb (s : State) : Out := .next s.advance

/-- `break` (R247). -/
def execBrk (swid : BitVec 15) (s : State) : Out := raise (.breakpoint s.pc (s.params.eventData swid))

/-- `syscall` (R248). -/
def execSyscall (swid : BitVec 15) (s : State) : Out := raise (.systemCall s.pc (s.params.eventData swid))

/-- `trap` (R249). -/
def execTrap (swid : BitVec 15) (s : State) : Out := raise (.trap s.pc (s.params.eventData swid))

/-- `teqz` (R250; log entry 18). -/
def execTeqz (rc : RegIdx) (swid : BitVec 15) (s : State) : Out := trapIf .teqz (isZero (s.reg rc)) swid s

/-- `tnez` (R251; log entry 18). -/
def execTnez (rc : RegIdx) (swid : BitVec 15) (s : State) : Out := trapIf .tnez (!isZero (s.reg rc)) swid s

end Sys2Proof.Machine
end

