-- ==== Sys2Proof/Machine/Shift.lean ====
section
/-! DEFINITION. Shifts and rotates (spec/45_shift.md; R218, R219). -/

namespace Sys2Proof.Machine

/-- `slli` (R210). -/
def execSlli (rt ra : RegIdx) (imm : BitVec 5) (s : State) : Out :=
  writeReg rt (lsl (s.reg ra) imm.toNat) s

/-- `srli` (R211). -/
def execSrli (rt ra : RegIdx) (imm : BitVec 5) (s : State) : Out :=
  writeReg rt (lsr (s.reg ra) imm.toNat) s

/-- `srai` (R212). -/
def execSrai (rt ra : RegIdx) (imm : BitVec 5) (s : State) : Out :=
  writeReg rt (asr (s.reg ra) imm.toNat) s

/-- `rotri` (R213). -/
def execRotri (rt ra : RegIdx) (imm : BitVec 5) (s : State) : Out :=
  writeReg rt (ror (s.reg ra) imm.toNat) s

/-- `sll` (R214). -/
def execSll (rt ra rb : RegIdx) (s : State) : Out :=
  writeReg rt (lsl (s.reg ra) (shiftAmount (s.reg rb))) s

/-- `srl` (R215). -/
def execSrl (rt ra rb : RegIdx) (s : State) : Out :=
  writeReg rt (lsr (s.reg ra) (shiftAmount (s.reg rb))) s

/-- `sra` (R216). -/
def execSra (rt ra rb : RegIdx) (s : State) : Out :=
  writeReg rt (asr (s.reg ra) (shiftAmount (s.reg rb))) s

/-- `rotr` (R217). -/
def execRotr (rt ra rb : RegIdx) (s : State) : Out :=
  writeReg rt (ror (s.reg ra) (shiftAmount (s.reg rb))) s

end Sys2Proof.Machine
end

