-- ==== Sys2Proof/Machine/System.lean ====
section
/-! DEFINITION. `mfsr` and `mtsr` (spec/40_system_registers.md). -/

namespace Sys2Proof.Machine

/-- `mfsr` at `PSW_INDEX` (R111). The bits that are no named field are free: they are the same word until the next
`mtsr` there (log entry 25). -/
def readPsw (rt : RegIdx) (s : State) : Out :=
  match s.params.pswBits with
  | none => refuse (.unmodelled .mfsrPsw)
  | some l => writeReg rt (packPsw l s.psw (Config.freePswBits s.pswEpoch)) s

/-- `mtsr` at `PSW_INDEX` (R111): the four fields; what the other bits of the word do is not in the spec (log entry 26). -/
def writePsw (w : Word) (s : State) : Out :=
  match s.params.pswBits with
  | none => refuse (.unmodelled .mtsrPsw)
  | some l => .next { (s.setPsw (unpackPsw l w)) with pswEpoch := s.pswEpoch + 1 }.advance

/-- `mfsr` (R110, R111, R113). -/
def execMfsr (rt : RegIdx) (n : SrIdx) (s : State) : Out :=
  ifWellFormed (.mfsr rt n) s <|
    if n = s.params.pswIndex then readPsw rt s else writeReg rt (s.sysReg n) s

/-- `mtsr` (R110, R111, R112, R114). At `PSW_INDEX` R111 decides, elsewhere `SR_PLAIN` does. -/
def execMtsr (rt : RegIdx) (n : SrIdx) (s : State) : Out :=
  ifWellFormed (.mtsr rt n) s <|
    if n = s.params.pswIndex then writePsw (s.reg rt) s
    else if s.params.srIsPlain n then .next (s.setSysReg n (s.reg rt)).advance
    else refuse (.unmodelled .mtsrSideEffects)

end Sys2Proof.Machine
end

