-- ==== Sys2Proof/Machine/Dispatch.lean ====
section
/-! DEFINITION. The meaning of every instruction, one arm per constructor. -/

namespace Sys2Proof.Machine

def exec (i : Instr) (s : State) : Host.Outcome State Fault Refusal :=
  match i with
  | .mfsr rt sridx => Sys2Proof.Machine.execMfsr rt sridx s
  | .mtsr rt sridx => Sys2Proof.Machine.execMtsr rt sridx s
  | .lwi rt ra imm => Sys2Proof.Machine.execLwi rt ra imm s
  | .lhi rt ra imm => Sys2Proof.Machine.execLhi rt ra imm s
  | .lhsi rt ra imm => Sys2Proof.Machine.execLhsi rt ra imm s
  | .lbi rt ra imm => Sys2Proof.Machine.execLbi rt ra imm s
  | .lbsi rt ra imm => Sys2Proof.Machine.execLbsi rt ra imm s
  | .swi rt ra imm => Sys2Proof.Machine.execSwi rt ra imm s
  | .shi rt ra imm => Sys2Proof.Machine.execShi rt ra imm s
  | .sbi rt ra imm => Sys2Proof.Machine.execSbi rt ra imm s
  | .lwiBi rt ra imm => Sys2Proof.Machine.execLwiBi rt ra imm s
  | .lhiBi rt ra imm => Sys2Proof.Machine.execLhiBi rt ra imm s
  | .lhsiBi rt ra imm => Sys2Proof.Machine.execLhsiBi rt ra imm s
  | .lbiBi rt ra imm => Sys2Proof.Machine.execLbiBi rt ra imm s
  | .lbsiBi rt ra imm => Sys2Proof.Machine.execLbsiBi rt ra imm s
  | .swiBi rt ra imm => Sys2Proof.Machine.execSwiBi rt ra imm s
  | .shiBi rt ra imm => Sys2Proof.Machine.execShiBi rt ra imm s
  | .sbiBi rt ra imm => Sys2Proof.Machine.execSbiBi rt ra imm s
  | .lw rt ra rb sv => Sys2Proof.Machine.execLw rt ra rb sv s
  | .lh rt ra rb sv => Sys2Proof.Machine.execLh rt ra rb sv s
  | .lhs rt ra rb sv => Sys2Proof.Machine.execLhs rt ra rb sv s
  | .lb rt ra rb sv => Sys2Proof.Machine.execLb rt ra rb sv s
  | .lbs rt ra rb sv => Sys2Proof.Machine.execLbs rt ra rb sv s
  | .sw rt ra rb sv => Sys2Proof.Machine.execSw rt ra rb sv s
  | .sh rt ra rb sv => Sys2Proof.Machine.execSh rt ra rb sv s
  | .sb rt ra rb sv => Sys2Proof.Machine.execSb rt ra rb sv s
  | .lwBi rt ra rb sv => Sys2Proof.Machine.execLwBi rt ra rb sv s
  | .lhBi rt ra rb sv => Sys2Proof.Machine.execLhBi rt ra rb sv s
  | .lhsBi rt ra rb sv => Sys2Proof.Machine.execLhsBi rt ra rb sv s
  | .lbBi rt ra rb sv => Sys2Proof.Machine.execLbBi rt ra rb sv s
  | .lbsBi rt ra rb sv => Sys2Proof.Machine.execLbsBi rt ra rb sv s
  | .swBi rt ra rb sv => Sys2Proof.Machine.execSwBi rt ra rb sv s
  | .shBi rt ra rb sv => Sys2Proof.Machine.execShBi rt ra rb sv s
  | .sbBi rt ra rb sv => Sys2Proof.Machine.execSbBi rt ra rb sv s
  | .j imm => Sys2Proof.Machine.execJ imm s
  | .jal imm => Sys2Proof.Machine.execJal imm s
  | .jr rb => Sys2Proof.Machine.execJr rb s
  | .ret rb => Sys2Proof.Machine.execRet rb s
  | .jral rt rb => Sys2Proof.Machine.execJral rt rb s
  | .jralLp rb => Sys2Proof.Machine.execJralLp rb s
  | .beq rt ra imm => Sys2Proof.Machine.execBeq rt ra imm s
  | .bne rt ra imm => Sys2Proof.Machine.execBne rt ra imm s
  | .beqz rt imm => Sys2Proof.Machine.execBeqz rt imm s
  | .bnez rt imm => Sys2Proof.Machine.execBnez rt imm s
  | .bgez rt imm => Sys2Proof.Machine.execBgez rt imm s
  | .bltz rt imm => Sys2Proof.Machine.execBltz rt imm s
  | .bgtz rt imm => Sys2Proof.Machine.execBgtz rt imm s
  | .blez rt imm => Sys2Proof.Machine.execBlez rt imm s
  | .bgezal rt imm => Sys2Proof.Machine.execBgezal rt imm s
  | .bltzal rt imm => Sys2Proof.Machine.execBltzal rt imm s
  | .addi rt ra imm => Sys2Proof.Machine.execAddi rt ra imm s
  | .subri rt ra imm => Sys2Proof.Machine.execSubri rt ra imm s
  | .andi rt ra imm => Sys2Proof.Machine.execAndi rt ra imm s
  | .ori rt ra imm => Sys2Proof.Machine.execOri rt ra imm s
  | .xori rt ra imm => Sys2Proof.Machine.execXori rt ra imm s
  | .slti rt ra imm => Sys2Proof.Machine.execSlti rt ra imm s
  | .sltsi rt ra imm => Sys2Proof.Machine.execSltsi rt ra imm s
  | .movi rt imm => Sys2Proof.Machine.execMovi rt imm s
  | .sethi rt imm => Sys2Proof.Machine.execSethi rt imm s
  | .add rt ra rb => Sys2Proof.Machine.execAdd rt ra rb s
  | .sub rt ra rb => Sys2Proof.Machine.execSub rt ra rb s
  | .and rt ra rb => Sys2Proof.Machine.execAnd rt ra rb s
  | .nor rt ra rb => Sys2Proof.Machine.execNor rt ra rb s
  | .or rt ra rb => Sys2Proof.Machine.execOr rt ra rb s
  | .xor rt ra rb => Sys2Proof.Machine.execXor rt ra rb s
  | .slt rt ra rb => Sys2Proof.Machine.execSlt rt ra rb s
  | .slts rt ra rb => Sys2Proof.Machine.execSlts rt ra rb s
  | .sva rt ra rb => Sys2Proof.Machine.execSva rt ra rb s
  | .svs rt ra rb => Sys2Proof.Machine.execSvs rt ra rb s
  | .seb rt ra => Sys2Proof.Machine.execSeb rt ra s
  | .seh rt ra => Sys2Proof.Machine.execSeh rt ra s
  | .zeb rt ra => Sys2Proof.Machine.execZeb rt ra s
  | .zeh rt ra => Sys2Proof.Machine.execZeh rt ra s
  | .wsbh rt ra => Sys2Proof.Machine.execWsbh rt ra s
  | .slli rt ra imm => Sys2Proof.Machine.execSlli rt ra imm s
  | .srli rt ra imm => Sys2Proof.Machine.execSrli rt ra imm s
  | .srai rt ra imm => Sys2Proof.Machine.execSrai rt ra imm s
  | .rotri rt ra imm => Sys2Proof.Machine.execRotri rt ra imm s
  | .sll rt ra rb => Sys2Proof.Machine.execSll rt ra rb s
  | .srl rt ra rb => Sys2Proof.Machine.execSrl rt ra rb s
  | .sra rt ra rb => Sys2Proof.Machine.execSra rt ra rb s
  | .rotr rt ra rb => Sys2Proof.Machine.execRotr rt ra rb s
  | .mul rt ra rb => Sys2Proof.Machine.execMul rt ra rb s
  | .mults64 d ra rb => Sys2Proof.Machine.execMults64 d ra rb s
  | .mult64 d ra rb => Sys2Proof.Machine.execMult64 d ra rb s
  | .madds64 d ra rb => Sys2Proof.Machine.execMadds64 d ra rb s
  | .madd64 d ra rb => Sys2Proof.Machine.execMadd64 d ra rb s
  | .msubs64 d ra rb => Sys2Proof.Machine.execMsubs64 d ra rb s
  | .msub64 d ra rb => Sys2Proof.Machine.execMsub64 d ra rb s
  | .mult32 d ra rb => Sys2Proof.Machine.execMult32 d ra rb s
  | .madd32 d ra rb => Sys2Proof.Machine.execMadd32 d ra rb s
  | .msub32 d ra rb => Sys2Proof.Machine.execMsub32 d ra rb s
  | .mfusr rt usr => Sys2Proof.Machine.execMfusr rt usr s
  | .mtusr rt usr => Sys2Proof.Machine.execMtusr rt usr s
  | .div d ra rb => Sys2Proof.Machine.execDiv d ra rb s
  | .divs d ra rb => Sys2Proof.Machine.execDivs d ra rb s
  | .cmovz rt ra rb => Sys2Proof.Machine.execCmovz rt ra rb s
  | .cmovn rt ra rb => Sys2Proof.Machine.execCmovn rt ra rb s
  | .dsb => Sys2Proof.Machine.execDsb s
  | .isb => Sys2Proof.Machine.execIsb s
  | .brk swid => Sys2Proof.Machine.execBrk swid s
  | .syscall swid => Sys2Proof.Machine.execSyscall swid s
  | .trap swid => Sys2Proof.Machine.execTrap swid s
  | .teqz rc swid => Sys2Proof.Machine.execTeqz rc swid s
  | .tnez rc swid => Sys2Proof.Machine.execTnez rc swid s
  | .iret => Sys2Proof.Machine.execIret s
  | .retItoff rb => Sys2Proof.Machine.execRetItoff rb s
  | .retToff rb => Sys2Proof.Machine.execRetToff rb s
  | .cctl operands => Sys2Proof.Machine.execCctl operands s
  | .setendB => Sys2Proof.Machine.execSetendB s
  | .setendL => Sys2Proof.Machine.execSetendL s
  | .setgieE => Sys2Proof.Machine.execSetgieE s
  | .setgieD => Sys2Proof.Machine.execSetgieD s
  | .standby wake => Sys2Proof.Machine.execStandby wake s

end Sys2Proof.Machine
end

