-- ==== Sys2Proof/Machine/Fetch.lean ====
section
/-! DEFINITION. Finding the instruction at `pc` at both levels of spec/70_reset_and_hazards.md R313 (spec/20_memory.md
R54, R61, R67), and putting a word where the next fetch finds it. -/

namespace Sys2Proof.Machine

/-- The byte order of a fetch: `IFETCH_BIG`, else that of a data word (R54). -/
def State.fetchBig (s : State) : Bool := s.params.ifetchBig || s.psw.be

/-- The word at `pc`, or why there is none (R313): translation (R61), then all four bytes must be allocated (R60, R313)
as program text: a store may write the other allocated bytes, so that no instruction is or may later be fetched from them
(R67; log entry 8). The fault reports `pc` (R313; log entry 16). -/
def State.fetchWord (s : State) : Except Fault Word :=
  match s.translate .fetch s.pc with
  | none => .error (.translationFault .fetch s.pc)
  | some p =>
    match firstBad s.params.fetchable p 4 with
    | some _ => .error (.accessFault s.pc)
    | none => .ok (assemble s.fetchBig (readBytes s.mem p 4))

/-- The instruction at `pc` at the binary level (R313, R100). -/
def State.fetchInstr (s : State) : Except Fault Instr :=
  match s.fetchWord with
  | .error f => .error f
  | .ok w =>
    match decodeWord w with
    | .error _ => .error (.notAnInstruction s.pc (some w))
    | .ok i => .ok i

/-- The instruction at `pc` at the assembly level: `AccessFault(pc)` outside the domain of the program map (R313). The
fetch address is translated as at the binary level (R61; log entry 42). -/
def State.lookInstr (s : State) (items : List ProgramItem) : Except Fault Instr :=
  match s.translate .fetch s.pc with
  | none => .error (.translationFault .fetch s.pc)
  | some p =>
    match instrAt items p with
    | none => .error (.accessFault s.pc)
    | some i => .ok i

/-- The instruction at `pc`, at the level of the program (R313). -/
def State.nextInstr (s : State) : Except Fault Instr :=
  match s.params.program with
  | .assembly items => s.lookInstr items
  | .binary => s.fetchInstr

/-- The four addresses `p` .. `p + 3` (modulo 2^32) as program text. -/
def textAt (p : Word) : List Region :=
  [0#32, 1#32, 2#32, 3#32].map fun k => ⟨(p + k).toNat, (p + k).toNat, .text⟩

/-- The fetch at `pc` gives an address: where the parameter faults there, the point is dropped (the identity remains). -/
def State.mapPc (s : State) : State :=
  match s.translate .fetch s.pc with
  | some _ => s
  | none =>
    { s with
      params :=
        { s.params with
          translation := s.params.translation.filter fun t => !(decide (t.kind = .fetch) && decide (t.vaddr = s.pc)) } }

/-- The fetch reads four bytes: where one of them may not be fetched, all four are declared program text. -/
def State.allowFetch (s : State) : State :=
  match firstBad s.params.fetchable s.fetchAddress 4 with
  | none => s
  | some _ => { s with params := { s.params with regions := textAt s.fetchAddress ++ s.params.regions } }

/-- The bytes of an instruction word in the order a fetch reads them (R54). -/
def State.fetchBytes (s : State) (w : Word) : List Byte := if s.fetchBig then bytesOfWord w else (bytesOfWord w).reverse

/-- Stores a word where the next fetch reads it. -/
def State.putFetchWord (s : State) (w : Word) : State :=
  { s with mem := writeBytes s.mem s.fetchAddress (s.fetchBytes w) }

end Sys2Proof.Machine
end

