-- ==== Sys2Proof/Machine/Step.lean ====
section
/-! DEFINITION. One step (spec/70_reset_and_hazards.md R313), and a state whose next fetch reads a given word. -/

namespace Sys2Proof.Machine

/-- One step: a core in standby stays there (R295, R268; log entry 20); else the
instruction at `pc` is found and executed (R313). -/
def step (s : State) : Host.Outcome State Fault Refusal :=
  match s.run with
  | .standby wake => raise (.standby s.pc wake)
  | .running =>
    match s.nextInstr with
    | .error f => raise f
    | .ok i => exec i s

/-- `s` with the instruction word placed where `step` fetches next: it stands for loading a program (log entry 8). The
core is running, the program is one of bytes, the fetch at `pc` translates, and its four bytes may be fetched and hold
the word. -/
def State.withFetchWord (s : State) (nbits w : Nat) : State :=
  ({ s with run := .running, params := { s.params with program := .binary } } : State)
    |>.mapPc.allowFetch.putFetchWord (tableWord nbits w)

end Sys2Proof.Machine
end

