-- ==== Sys2Proof/Safety.lean ====
section
/-! DEFINITION. The terms statements use: the groups of outcomes (spec/60_exceptions.md R281), what a state keeps, the
invariant of the machine, the values memory holds, and what an access needs. -/

namespace Sys2Proof.Machine

/-! ### Outcomes -/

/-- The event group of R281: what the instructions' titles say happens. -/
def Fault.isEvent : Fault → Bool
  | .breakpoint _ _ | .systemCall _ _ | .trap _ _ | .standby _ _ => true
  | .dataMisaligned _ _ | .instructionMisaligned _ | .accessFault _ | .translationFault _ _
  | .notAnInstruction _ _ => false

/-- A step that does not go wrong: it completes, or ends in an event (R281, R315). -/
def safeOutcome : Out → Bool
  | .next _ => true
  | .fault f => f.isEvent
  | .refused _ => false

/-- No outcome of the fault or refusal group within `k` steps (R315). -/
def safeRun : Nat → State → Prop
  | 0, _ => True
  | k + 1, s => safeOutcome (step s) = true ∧ ∀ t, step s = .next t → safeRun k t

/-- `t` is the state `k` completed steps after `s`. -/
def After : Nat → State → State → Prop
  | 0, s, t => t = s
  | k + 1, s, t => ∃ u, step s = .next u ∧ After k u t

/-- The outcome with a function applied to the state of a completed step. -/
def mapNext (f : State → State) : Out → Out
  | .next s => .next (f s)
  | .fault e => .fault e
  | .refused r => .refused r

/-! ### Frames -/

/-- The general registers other than those listed are as before. -/
def SameRegs (s t : State) (but : List RegIdx) : Prop := ∀ r, r ∉ but → t.reg r = s.reg r

/-- The d registers other than those listed are as before. -/
def SameD (s t : State) (but : List Nat) : Prop := ∀ k, k ∉ but → t.dreg k = s.dreg k

/-- Every byte of memory is as before. -/
def SameBytes (s t : State) : Prop := ∀ a, t.byteAt a = s.byteAt a

/-- Every byte of memory other than those at the listed addresses is as before. -/
def SameBytesBut (s t : State) (but : List Word) : Prop := ∀ a, a ∉ but → t.byteAt a = s.byteAt a

/-- `SR[ ]`, opaque `USReg[ ]`, cache, run state and parameters are as before. -/
def SameFiles (s t : State) : Prop :=
  t.sr = s.sr ∧ t.usr = s.usr ∧ t.cache = s.cache ∧ t.run = s.run ∧ t.params = s.params

/-- PSW is as before, the bits without a name included. -/
def SamePsw (s t : State) : Prop := t.psw = s.psw ∧ t.pswEpoch = s.pswEpoch

/-- All but the general registers and `pc` is as before: the frame of an instruction that only writes registers. -/
def SameOutsideRegs (s t : State) : Prop := SameD s t [] ∧ SameBytes s t ∧ SameFiles s t ∧ SamePsw s t

/-- `pc` is the next sequential address (R26). -/
def Advanced (s t : State) : Prop := t.pc = s.pc + 4#32

/-- The instruction completes, writes `v` to `x[rt]`, advances, and changes nothing else. -/
def WritesReg (o : Out) (s : State) (rt : RegIdx) (v : Word → Prop) : Prop :=
  ∃ t, o = .next t ∧ v (t.reg rt) ∧ Advanced s t ∧ SameRegs s t [rt] ∧ SameOutsideRegs s t

/-- The instruction completes, writes `d[k]`, advances, and changes nothing else. -/
def WritesD (o : Out) (s : State) (k : Nat) (v : DWord → Prop) : Prop :=
  ∃ t, o = .next t ∧ v (t.dreg k) ∧ Advanced s t ∧ SameRegs s t [] ∧ SameD s t [k] ∧ SameBytes s t ∧
    SameFiles s t ∧ SamePsw s t

/-- The instruction completes at `pc` = `target` and changes nothing but the registers listed. -/
def GoesTo (o : Out) (s : State) (target : Word) (regs : List RegIdx) (v : State → Prop) : Prop :=
  ∃ t, o = .next t ∧ t.pc = target ∧ v t ∧ SameRegs s t regs ∧ SameOutsideRegs s t

/-! ### The invariant -/

/-- What every step keeps: the canonical forms of memory, `SR[ ]`, `USReg[ ]` and the `ND` d registers,
an even `pc` (R27), and positive `ND` and `SV_BITS` (R5). -/
def State.Inv (s : State) : Prop :=
  Memory.wf s.mem ∧ sparseWf 1024 s.sr ∧ sparseWf 1024 s.usr ∧ sparseWf s.params.nd s.d ∧
    s.pc.toNat % 2 = 0 ∧ 0 < s.params.nd ∧ 0 < s.params.svBits

/-- `pc` plus twice a signed displacement, modulo 2^32 (R175). -/
def State.target (s : State) (displacement : Int) : Word := s.pc + BitVec.ofInt 32 (2 * displacement)

/-! ### Memory -/

/-- The halfword at `p` in the byte order of `PSW.BE` (R51). -/
def State.halfAt (s : State) (p : Word) : BitVec 16 :=
  if s.psw.be then s.byteAt p ++ s.byteAt (p + 1#32) else s.byteAt (p + 1#32) ++ s.byteAt p

/-- The word at `p` in the byte order of `PSW.BE` (R51). -/
def State.wordAt (s : State) (p : Word) : Word :=
  if s.psw.be then s.byteAt p ++ s.byteAt (p + 1#32) ++ s.byteAt (p + 2#32) ++ s.byteAt (p + 3#32)
  else s.byteAt (p + 3#32) ++ s.byteAt (p + 2#32) ++ s.byteAt (p + 1#32) ++ s.byteAt p

/-- The word a fetch at `p` reads: most significant byte first under `IFETCH_BIG`, else as a data word (R54). -/
def State.instructionWordAt (s : State) (p : Word) : Word :=
  if s.params.ifetchBig = true ∨ s.psw.be = true then
    s.byteAt p ++ s.byteAt (p + 1#32) ++ s.byteAt (p + 2#32) ++ s.byteAt (p + 3#32)
  else s.byteAt (p + 3#32) ++ s.byteAt (p + 2#32) ++ s.byteAt (p + 1#32) ++ s.byteAt p

/-- The `n` addresses from `p`, modulo 2^32. -/
def addresses (p : Word) (n : Nat) : List Word := (List.range n).map fun k => p + BitVec.ofNat 32 k

/-- A data access of `n` bytes at `a` reaches `p` and every byte is admitted: aligned (R55), translated (R61),
allocated (R60, R67). -/
def State.Reaches (s : State) (ok : Nat → Bool) (a : Word) (n : Nat) (p : Word) : Prop :=
  a.toNat % n = 0 ∧ s.translate .data a = some p ∧ ∀ b ∈ addresses p n, ok b.toNat = true

/-- A load of `n` bytes at `a` reads at `p`. -/
def State.Loads (s : State) (a : Word) (n : Nat) (p : Word) : Prop := s.Reaches s.params.loadable a n p

/-- A store of `n` bytes at `a` writes at `p`. -/
def State.Stores (s : State) (a : Word) (n : Nat) (p : Word) : Prop := s.Reaches s.storable a n p

/-- The load completes with `x[rt]` = `v`, advances, and changes nothing else. -/
abbrev LoadsTo (o : Out) (s : State) (rt : RegIdx) (v : Word) : Prop := WritesReg o s rt (· = v)

/-- A post-increment load completes with `x[rt]` = `v` and `x[ra]` = `base`, advances, and changes nothing else. -/
def LoadsPost (o : Out) (s : State) (rt ra : RegIdx) (v base : Word) : Prop :=
  ∃ t, o = .next t ∧ t.reg rt = v ∧ t.reg ra = base ∧ Advanced s t ∧ SameRegs s t [rt, ra] ∧ SameOutsideRegs s t

/-- A store completes with the bytes at `p`, `p + 1`, ... as listed, advances, leaves every other byte as before, and
changes no register but those that `regs` names, which `v` describes. -/
def StoresBytes (o : Out) (s : State) (p : Word) (bytes : List Byte) (regs : List RegIdx) (v : State → Prop) : Prop :=
  ∃ t, o = .next t ∧ (addresses p bytes.length).map t.byteAt = bytes ∧
    SameBytesBut s t (addresses p bytes.length) ∧ v t ∧ Advanced s t ∧ SameRegs s t regs ∧ SameD s t [] ∧
    SameFiles s t ∧ SamePsw s t

/-- The bytes of a halfword in order of address (R52). -/
def halfBytes (be : Bool) (v : Word) : List Byte :=
  if be then [v.extractLsb' 8 8, v.extractLsb' 0 8] else [v.extractLsb' 0 8, v.extractLsb' 8 8]

/-- The bytes of a word in order of address (R52). -/
def wordBytes (be : Bool) (v : Word) : List Byte :=
  if be then [v.extractLsb' 24 8, v.extractLsb' 16 8, v.extractLsb' 8 8, v.extractLsb' 0 8]
  else [v.extractLsb' 0 8, v.extractLsb' 8 8, v.extractLsb' 16 8, v.extractLsb' 24 8]

/-! ### Which instructions -/

/-- The 12 stores (R57). -/
def isStore : Instr → Bool
  | .swi _ _ _ | .shi _ _ _ | .sbi _ _ _ | .swiBi _ _ _ | .shiBi _ _ _ | .sbiBi _ _ _
  | .sw _ _ _ _ | .sh _ _ _ _ | .sb _ _ _ _ | .swBi _ _ _ _ | .shBi _ _ _ _ | .sbBi _ _ _ _ => true
  | _ => false

/-- The instructions that write a field of PSW. -/
def writesPsw : Instr → Bool
  | .mtsr _ _ | .setendB | .setendL | .setgieE | .setgieD | .retItoff _ | .retToff _ => true
  | _ => false

/-- The instructions that write a d register (R43). -/
def writesD : Instr → Bool
  | .mults64 _ _ _ | .mult64 _ _ _ | .madds64 _ _ _ | .madd64 _ _ _ | .msubs64 _ _ _ | .msub64 _ _ _
  | .mult32 _ _ _ | .madd32 _ _ _ | .msub32 _ _ _ | .div _ _ _ | .divs _ _ _ | .mtusr _ _ => true
  | _ => false

/-- The one data access of a load or store (R57): its address (R136, R156) and its size in bytes. -/
def dataAccess (i : Instr) (s : State) : Option (Word × Nat) :=
  match i with
  | .lwi _ ra imm | .swi _ ra imm => some (s.reg ra + scaled imm 2, 4)
  | .lhi _ ra imm | .lhsi _ ra imm | .shi _ ra imm => some (s.reg ra + scaled imm 1, 2)
  | .lbi _ ra imm | .lbsi _ ra imm | .sbi _ ra imm => some (s.reg ra + scaled imm 0, 1)
  | .lw _ ra rb sv | .sw _ ra rb sv => some (s.reg ra + scaledIndex (s.reg rb) sv, 4)
  | .lh _ ra rb sv | .lhs _ ra rb sv | .sh _ ra rb sv => some (s.reg ra + scaledIndex (s.reg rb) sv, 2)
  | .lb _ ra rb sv | .lbs _ ra rb sv | .sb _ ra rb sv => some (s.reg ra + scaledIndex (s.reg rb) sv, 1)
  | .lwiBi _ ra _ | .swiBi _ ra _ | .lwBi _ ra _ _ | .swBi _ ra _ _ => some (s.reg ra, 4)
  | .lhiBi _ ra _ | .lhsiBi _ ra _ | .shiBi _ ra _ | .lhBi _ ra _ _ | .lhsBi _ ra _ _ | .shBi _ ra _ _ =>
    some (s.reg ra, 2)
  | .lbiBi _ ra _ | .lbsiBi _ ra _ | .sbiBi _ ra _ | .lbBi _ ra _ _ | .lbsBi _ ra _ _ | .sbBi _ ra _ _ =>
    some (s.reg ra, 1)
  | _ => none

/-- What an access of the instruction needs of every byte: a store may not reach program text at the binary level
(R67). -/
def State.admits (s : State) (i : Instr) : Nat → Bool := if isStore i then s.storable else s.params.loadable

/-- The operand overlaps of a load that have no meaning (R138, R158). -/
def overlapsLoad : Instr → Bool
  | .lwiBi rt ra _ | .lhiBi rt ra _ | .lhsiBi rt ra _ | .lbiBi rt ra _ | .lbsiBi rt ra _ => decide (rt = ra)
  | .lwBi rt ra rb _ | .lhBi rt ra rb _ | .lhsBi rt ra rb _ | .lbBi rt ra rb _ | .lbsBi rt ra rb _ =>
    decide (rt = ra) || decide (rt = rb)
  | _ => false

/-- The bytes of a word in the opposite order (R53). -/
def byteReverse (v : Word) : Word := v.extractLsb' 0 8 ++ v.extractLsb' 8 8 ++ v.extractLsb' 16 8 ++ v.extractLsb' 24 8

/-- The state with `PSW.GIE` set to a given bit. -/
def State.withGie (g : Bool) (s : State) : State := s.setPsw { s.psw with gie := g }

end Sys2Proof.Machine
end

