-- ==== Sys2Proof/Certificates/Slice0/Obligations.lean ====
section
/-! DEFINITION. The statements for the provers. -/

open Sys2Proof Sys2Proof.Machine

/-- At reset memory, SR, USReg and the d registers are in canonical form, pc is even, and ND and SV_BITS are positive.
The reset values themselves are the model's choice (log entries 1 to 6). (R26, R27, R38) -/
def Obligations.ResetStateIsWellFormed : Prop :=
  State.reset.Inv

/-- From every state whose memory, SR, USReg and d registers (each index below ND) are in canonical form, whose pc is
even and whose ND and SV_BITS are positive, a step that completes gives such a state, at both levels. The canonical
forms are the model's own; that pc stays even follows from R26 and R27. (R26, R27, R38, R63) -/
def Obligations.EveryStepKeepsTheInvariant : Prop :=
  ∀ s t : State, s.Inv → step s = .next t → t.Inv

/-- For every instruction that has a word, with every value its fields hold, and every choice of the parameters, the
word decodes to the instruction, but for zeb (decoded as andi rt, ra, 0xFF) and one-operand jral (decoded as jral
with rt = LP_INDEX). Where ND and SV_BITS are at most 2, every well-formed instruction has a word; that larger
operands have none is the model's reading (log entry 28). (R90, R91, R92, R93, R94, R95, R96, R97, R98, R99, R106,
R107) -/
def Obligations.DecodingAnEncodedInstruction : Prop :=
  ∀ (p : Params) (i : Instr), (∀ w, i.word p = some w → decodeWord w = .ok (i.canonical p)) ∧
    (p.nd ≤ 2 → p.svBits ≤ 2 → i.wellFormed p = true → i.word p = some (i.encode p))

/-- No bit of a decoded word is ignored: a word with a reserved field that is not zero, or that matches no row, decodes
to nothing. (R90, R100) -/
def Obligations.EncodingADecodedWord : Prop :=
  ∀ (p : Params) (w : Word) (i : Instr), decodeWord w = .ok i → i.word p = some w

/-- For every instruction and state, the instruction a decoder reports for its word has the same outcome: zeb is andi
rt, ra, 0xFF and jral rb is jral with rt = LP_INDEX. (R106, R107, R164, R182, R202) -/
def Obligations.AliasesMeanTheirCoreInstruction : Prop :=
  ∀ (i : Instr) (s : State), exec (i.canonical s.params) s = exec i s

/-- Let the core run and its fetch address be p. At the binary level, where the four bytes at p are program text and
their word decodes to i, the step is exec of i at that state. At the assembly level, where the program map holds i
at p, the step is exec of i at that state. Step adds nothing around exec. That instructions are fetched from program
text, and stores go to data, is how the model keeps R67 (log entry 8), and that the address is translated at the
assembly level too is its choice (log entry 42). (R310, R313, R54, R61) -/
def Obligations.StepRunsTheInstructionAtPc : Prop :=
  ∀ (s : State) (p : Word) (i : Instr), s.run = .running → s.translate .fetch s.pc = some p →
    (s.params.program = .binary → (∀ b ∈ addresses p 4, s.params.fetchable b.toNat = true) →
      decodeWord (s.instructionWordAt p) = .ok i → step s = exec i s) ∧
    (∀ items, s.params.program = .assembly items → instrAt items p = some i → step s = exec i s)

/-- At both levels a fetch that does not translate faults, and a core in standby stays there. At the assembly level a
fetch address outside the domain of the program map, as every odd one is, is AccessFault(pc). At the binary level a
byte that is unallocated (R313) or no program text (R67) is AccessFault(pc), before decoding; a word that decodes to
nothing, or to an ill-formed instruction (a selector outside its set, an sv of more than SV_BITS bits, a d register
past the ND-th), is NotAnInstruction with pc and the word fetched. Every ill-formed instruction, one without a word
too, is NotAnInstruction in exec, in every state and before any other outcome. The model's readings: a byte that may
be stored to is not fetched (log entry 8), the name of the translation fault (log entry 15), the outcome in standby
(log entry 20), an operand its field cannot hold has no word (log entry 28), NotAnInstruction carries both pc and
the word, but no word at the assembly level (log entry 41), and translation at the assembly level (log entry 42).
(R67, R100, R110, R230, R281, R286, R295, R310, R313) -/
def Obligations.StepStopsWhereThereIsNoInstruction : Prop :=
  ∀ (s : State) (p : Word),
    (s.run = .running → s.translate .fetch s.pc = none → step s = .fault (.translationFault .fetch s.pc)) ∧
    (s.run = .running → s.translate .fetch s.pc = some p → ∀ items, s.params.program = .assembly items →
      instrAt items p = none → step s = .fault (.accessFault s.pc)) ∧
    (s.run = .running → s.translate .fetch s.pc = some p → ∀ items, s.params.program = .assembly items →
      p.toNat % 2 = 1 → step s = .fault (.accessFault s.pc)) ∧
    (s.run = .running → s.translate .fetch s.pc = some p → s.params.program = .binary →
      (∃ b ∈ addresses p 4, s.params.fetchable b.toNat = false) →
      step s = .fault (.accessFault s.pc)) ∧
    (s.run = .running → s.translate .fetch s.pc = some p → s.params.program = .binary →
      (∀ b ∈ addresses p 4, s.params.fetchable b.toNat = true) →
      (∀ i, decodeWord (s.instructionWordAt p) = .ok i → i.wellFormed s.params = false) →
      step s = .fault (.notAnInstruction s.pc (some (s.instructionWordAt p)))) ∧
    (∀ k, s.run = .standby k → step s = .fault (.standby s.pc k)) ∧
    (∀ i : Instr, i.wellFormed s.params = false → exec i s = .fault (.notAnInstruction s.pc (s.wordOf i)))

/-- For every state and every table word that decodes to i, the step after withFetchWord is exec of i. It says that the
load of a program (log entry 8) is complete. (R310, R313, R54) -/
def Obligations.APlacedInstructionRuns : Prop :=
  ∀ (s : State) (nbits w : Nat) (i : Instr), decodeTableWord nbits w = some i →
    step (s.withFetchWord nbits w) = exec i (s.withFetchWord nbits w)

/-- One example word from each family of the spec decodes to the instruction its rule gives it for. (R90, R91, R92, R93,
R94, R95, R96, R97, R98, R99) -/
def Obligations.WordsOfTheSpecDecode : Prop :=
  decodeWord 0x64301402#32 = .ok (.mfsr 3 5) ∧
    decodeWord 0x04008002#32 = .ok (.lwi 0 1 2) ∧
    decodeWord 0x38008A02#32 = .ok (.lw 0 1 2 2) ∧
    decodeWord 0x49FFFFFC#32 = .ok (.jal (-4)) ∧
    decodeWord 0x4A401001#32 = .ok (.jral 4 4) ∧
    decodeWord 0x4C114006#32 = .ok (.bne 1 2 6) ∧
    decodeWord 0x4E1D0020#32 = .ok (.bltzal 1 32) ∧
    decodeWord 0x50117FFF#32 = .ok (.addi 1 2 (-1)) ∧
    decodeWord 0x40110C07#32 = .ok (.slts 1 2 3) ∧
    decodeWord 0x40110409#32 = .ok (.srli 1 2 1) ∧
    decodeWord 0x42210C2A#32 = .ok (.madds64 1 2 3) ∧
    decodeWord 0x42010C2E#32 = .ok (.divs 0 2 3) ∧
    decodeWord 0x40110C1A#32 = .ok (.cmovz 1 2 3) ∧
    decodeWord 0x64400006#32 = .ok (.teqz 4 0) ∧
    decodeWord 0x4A001720#32 = .ok (.retToff 5) ∧
    decodeWord 0x64120043#32 = .ok .setgieE

/-- Whatever instruction runs, in whatever state, a completed step leaves the launch parameters, the program map among
them, and every unallocated byte as they were. At the binary level it also leaves program text as it was, and the
four bytes it was fetched from are text; and an address from which the instruction of this or any later step of a
run is fetched is one that no store may write now: every well-formed, aligned store that reaches it raises
AccessFault at the store, and the byte fetched there is the one that memory holds now. Which addresses are text is
the launch's to say, and that nothing else is fetched is the model's reading of R67 (log entry 8). (R60, R67, R310,
R313) -/
def Obligations.ProgramTextIsNeverWritten : Prop :=
  (∀ s t : State, step s = .next t →
      t.params = s.params ∧ (∀ a : Word, s.params.loadable a.toNat = false → t.byteAt a = s.byteAt a) ∧
      (s.params.program = .binary →
        (∀ a : Word, s.params.fetchable a.toNat = true → t.byteAt a = s.byteAt a) ∧
        ∀ a ∈ addresses s.fetchAddress 4, s.params.fetchable a.toNat = true)) ∧
    ∀ (k : Nat) (s u v : State), s.params.program = .binary → After k s u → step u = .next v →
      ∀ a ∈ addresses u.fetchAddress 4, s.storable a.toNat = false ∧ v.byteAt a = s.byteAt a ∧
        ∀ (i : Instr) (x : Word) (n : Nat) (p : Word), isStore i = true → i.wellFormed s.params = true →
          dataAccess i s = some (x, n) → x.toNat % n = 0 → s.translate .data x = some p → a ∈ addresses p n →
          ∃ b, exec i s = .fault (.accessFault b)

/-- An instruction that is no store leaves all memory as it was; a store changes no byte outside those from its
translated address, as many as its size. (R38, R52, R57, R136, R156) -/
def Obligations.MemoryChangesOnlyAtAStoresBytes : Prop :=
  ∀ (i : Instr) (s t : State), exec i s = .next t →
    (isStore i = false → t.mem = s.mem) ∧
    (isStore i = true → ∀ a n p, dataAccess i s = some (a, n) → s.translate .data a = some p →
      SameBytesBut s t (addresses p n))

/-- Every other instruction leaves the four fields, and the unnamed bits, as they were: no arithmetic, move, load,
store, jump or branch writes a mode bit. (R28, R30, R43) -/
def Obligations.PswChangesOnlyByItsInstructions : Prop :=
  ∀ (i : Instr) (s t : State), writesPsw i = false → exec i s = .next t → SamePsw s t

/-- ret.itoff clears IT and keeps DT, ret.toff clears both, and after any completed instruction other than mtsr, IT is 1
only if it was 1 before, and so for DT. (R33) -/
def Obligations.TranslationIsTurnedOnOnlyByMtsr : Prop :=
  (∀ (rb : RegIdx) (s t : State), exec (.retItoff rb) s = .next t → t.psw.it = false ∧ t.psw.dt = s.psw.dt) ∧
    (∀ (rb : RegIdx) (s t : State), exec (.retToff rb) s = .next t → t.psw.it = false ∧ t.psw.dt = false) ∧
    (∀ (i : Instr) (s t : State), (∀ rt n, i ≠ .mtsr rt n) → exec i s = .next t →
      (t.psw.it = true → s.psw.it = true) ∧ (t.psw.dt = true → s.psw.dt = true))

/-- Changing GIE before an instruction other than mfsr changes neither the kind of its outcome nor anything of the next
state but GIE itself. (R32, R284) -/
def Obligations.InterruptEnableIsNeverRead : Prop :=
  ∀ (i : Instr) (s : State) (g g' : Bool), (∀ rt n, i ≠ .mfsr rt n) →
    mapNext (State.withGie g') (exec i (s.withGie g)) = mapNext (State.withGie g') (exec i s)

/-- SR changes only by mtsr, opaque USReg entries only by mtusr, d registers only by the multiply and divide
instructions and mtusr; cache and run state never change in a completed instruction. That the loads and stores leave
cache state alone, where the table of R43 lists accesses among what writes it, is the model's choice (log entry 21):
caches are transparent (R68) and the state is a number no rule interprets. That the run state stays is the model's
too (log entry 20). (R28, R40, R41, R43, R68) -/
def Obligations.SpecialFilesChangeOnlyByTheirInstructions : Prop :=
  ∀ (i : Instr) (s t : State), exec i s = .next t →
    ((∀ rt n, i ≠ .mtsr rt n) → t.sr = s.sr) ∧ ((∀ rt u, i ≠ .mtusr rt u) → t.usr = s.usr) ∧
    (writesD i = false → SameD s t []) ∧ t.cache = s.cache ∧ t.run = s.run

/-- The offset of a 15-bit field, scaled by k, is its signed value times 2^k, for k = 0, 1, 2; no bit is lost. (R83) -/
def Obligations.OffsetsAreScaledAndSigned : Prop :=
  ∀ imm : BitVec 15, (scaled imm 2).toInt = 4 * imm.toInt ∧ (scaled imm 1).toInt = 2 * imm.toInt ∧
    (scaled imm 0).toInt = imm.toInt ∧ -16384 ≤ imm.toInt ∧ imm.toInt ≤ 16383

/-- For each of the three displacement widths (24, 16, 14 bits). (R84, R175) -/
def Obligations.PcRelativeTargets : Prop :=
  ∀ (s : State) (i24 : BitVec 24) (i16 : BitVec 16) (i14 : BitVec 14),
    ((pcRelative i24 s).toNat : Int) = (s.pc.toNat + 2 * i24.toInt) % 2 ^ 32 ∧
    ((pcRelative i16 s).toNat : Int) = (s.pc.toNat + 2 * i16.toInt) % 2 ^ 32 ∧
    ((pcRelative i14 s).toNat : Int) = (s.pc.toNat + 2 * i14.toInt) % 2 ^ 32

/-- For every sv, whatever SV_BITS and the access size are. (R156) -/
def Obligations.IndexIsShiftedAndTruncated : Prop :=
  ∀ (v : Word) (sv : Nat), (scaledIndex v sv).toNat = v.toNat * 2 ^ sv % 2 ^ 32

/-- Each completes in every state, writes the sum or difference modulo 2^32 to x[rt], advances pc by 4, and leaves every
other register, d register, PSW, special register and byte of memory as before. (R180, R181, R190, R191, R205) -/
def Obligations.AddAndSubtractWrap : Prop :=
  ∀ (s : State) (rt ra rb : RegIdx) (imm : BitVec 15),
    WritesReg (exec (.addi rt ra imm) s) s rt
      (fun v => (v.toNat : Int) = ((s.reg ra).toNat + imm.toInt) % 2 ^ 32) ∧
    WritesReg (exec (.subri rt ra imm) s) s rt
      (fun v => (v.toNat : Int) = (imm.toInt - (s.reg ra).toNat) % 2 ^ 32) ∧
    WritesReg (exec (.add rt ra rb) s) s rt
      (fun v => (v.toNat : Int) = ((s.reg ra).toNat + (s.reg rb).toNat) % 2 ^ 32) ∧
    WritesReg (exec (.sub rt ra rb) s) s rt
      (fun v => (v.toNat : Int) = ((s.reg ra).toNat - (s.reg rb).toNat) % 2 ^ 32)

/-- andi, ori, xori, and, nor, or, xor complete in every state with the result given bit by bit; bits 31:15 of the
immediate are 0; nothing else changes. (R182, R183, R184, R192, R193, R194, R195) -/
def Obligations.BitwiseLogicResults : Prop :=
  ∀ (s : State) (rt ra rb : RegIdx) (imm : BitVec 15),
    WritesReg (exec (.andi rt ra imm) s) s rt
      (fun v => ∀ k < 32, v.getLsbD k = ((s.reg ra).getLsbD k && imm.getLsbD k)) ∧
    WritesReg (exec (.ori rt ra imm) s) s rt
      (fun v => ∀ k < 32, v.getLsbD k = ((s.reg ra).getLsbD k || imm.getLsbD k)) ∧
    WritesReg (exec (.xori rt ra imm) s) s rt
      (fun v => ∀ k < 32, v.getLsbD k = ((s.reg ra).getLsbD k ^^ imm.getLsbD k)) ∧
    WritesReg (exec (.and rt ra rb) s) s rt
      (fun v => ∀ k < 32, v.getLsbD k = ((s.reg ra).getLsbD k && (s.reg rb).getLsbD k)) ∧
    WritesReg (exec (.nor rt ra rb) s) s rt
      (fun v => ∀ k < 32, v.getLsbD k = !((s.reg ra).getLsbD k || (s.reg rb).getLsbD k)) ∧
    WritesReg (exec (.or rt ra rb) s) s rt
      (fun v => ∀ k < 32, v.getLsbD k = ((s.reg ra).getLsbD k || (s.reg rb).getLsbD k)) ∧
    WritesReg (exec (.xor rt ra rb) s) s rt
      (fun v => ∀ k < 32, v.getLsbD k = ((s.reg ra).getLsbD k ^^ (s.reg rb).getLsbD k))

/-- slti sign-extends its immediate and compares unsigned; sltsi and slts compare signed; slt compares unsigned; sva and
svs test whether the exact signed sum or difference leaves -2^31 .. 2^31 - 1. Nothing else changes. (R185, R186,
R196, R197, R198, R199, R207) -/
def Obligations.ComparisonsWriteOneOrZero : Prop :=
  ∀ (s : State) (rt ra rb : RegIdx) (imm : BitVec 15),
    WritesReg (exec (.slti rt ra imm) s) s rt
      (· = if ((s.reg ra).toNat : Int) < imm.toInt % 2 ^ 32 then 1#32 else 0#32) ∧
    WritesReg (exec (.sltsi rt ra imm) s) s rt (· = if (s.reg ra).toInt < imm.toInt then 1#32 else 0#32) ∧
    WritesReg (exec (.slt rt ra rb) s) s rt (· = if (s.reg ra).toNat < (s.reg rb).toNat then 1#32 else 0#32) ∧
    WritesReg (exec (.slts rt ra rb) s) s rt (· = if (s.reg ra).toInt < (s.reg rb).toInt then 1#32 else 0#32) ∧
    WritesReg (exec (.sva rt ra rb) s) s rt
      (· = if -2 ^ 31 ≤ (s.reg ra).toInt + (s.reg rb).toInt ∧ (s.reg ra).toInt + (s.reg rb).toInt ≤ 2 ^ 31 - 1
        then 0#32 else 1#32) ∧
    WritesReg (exec (.svs rt ra rb) s) s rt
      (· = if -2 ^ 31 ≤ (s.reg ra).toInt - (s.reg rb).toInt ∧ (s.reg ra).toInt - (s.reg rb).toInt ≤ 2 ^ 31 - 1
        then 0#32 else 1#32)

/-- sva writes 1 exactly when the operands have one sign and the 32-bit sum the other; svs exactly when the operands
differ in sign and the 32-bit difference has the sign of x[rb]. (Corner cases (a) of R198 and R199; that overflow is
signed is the decision D14, log entry 29.) (R198, R199) -/
def Obligations.OverflowIsSeenInTheSigns : Prop :=
  ∀ (s : State) (rt ra rb : RegIdx),
    WritesReg (exec (.sva rt ra rb) s) s rt (fun v => v = 1#32 ↔
      (s.reg ra).msb = (s.reg rb).msb ∧ (s.reg ra + s.reg rb).msb ≠ (s.reg ra).msb) ∧
    WritesReg (exec (.svs rt ra rb) s) s rt (fun v => v = 1#32 ↔
      (s.reg ra).msb ≠ (s.reg rb).msb ∧ (s.reg ra - s.reg rb).msb = (s.reg rb).msb)

/-- Both complete in every state and change nothing but x[rt] and pc. (R187, R188) -/
def Obligations.MoveImmediateResults : Prop :=
  ∀ (s : State) (rt : RegIdx) (imm : BitVec 20),
    WritesReg (exec (.movi rt imm) s) s rt (fun v => v.toInt = imm.toInt) ∧
    WritesReg (exec (.sethi rt imm) s) s rt (fun v => v.toNat = imm.toNat * 4096)

/-- sethi rt, c[31:12] followed by ori rt, rt, c[11:0] leaves c in x[rt], for every c. (R86, R183, R188) -/
def Obligations.SethiThenOriBuildsAnyConstant : Prop :=
  ∀ (s : State) (rt : RegIdx) (c : Word), ∃ t u,
    exec (.sethi rt (c.extractLsb' 12 20)) s = .next t ∧
    exec (.ori rt rt ((c.extractLsb' 0 12).setWidth 15)) t = .next u ∧ u.reg rt = c

/-- Each completes in every state and changes nothing but x[rt] and pc. (R200, R201, R202, R203, R204) -/
def Obligations.ExtensionAndSwapResults : Prop :=
  ∀ (s : State) (rt ra : RegIdx),
    WritesReg (exec (.seb rt ra) s) s rt (fun v => v.toInt = ((s.reg ra).extractLsb' 0 8).toInt) ∧
    WritesReg (exec (.seh rt ra) s) s rt (fun v => v.toInt = ((s.reg ra).extractLsb' 0 16).toInt) ∧
    WritesReg (exec (.zeb rt ra) s) s rt (fun v => v.toNat = (s.reg ra).toNat % 256) ∧
    WritesReg (exec (.zeh rt ra) s) s rt (fun v => v.toNat = (s.reg ra).toNat % 65536) ∧
    WritesReg (exec (.wsbh rt ra) s) s rt (fun v =>
      v.extractLsb' 24 8 = (s.reg ra).extractLsb' 16 8 ∧ v.extractLsb' 16 8 = (s.reg ra).extractLsb' 24 8 ∧
      v.extractLsb' 8 8 = (s.reg ra).extractLsb' 0 8 ∧ v.extractLsb' 0 8 = (s.reg ra).extractLsb' 8 8)

/-- Left: times 2^n modulo 2^32. Logical right: the unsigned quotient by 2^n. Arithmetic right: the signed quotient by
2^n, rounded down. Rotate: bit k of the result is bit (k + n) mod 32. Nothing else changes. (R210, R211, R212, R213) -/
def Obligations.ShiftsByAnImmediate : Prop :=
  ∀ (s : State) (rt ra : RegIdx) (n : BitVec 5),
    WritesReg (exec (.slli rt ra n) s) s rt (fun v =>
      v.toNat = (s.reg ra).toNat * 2 ^ n.toNat % 2 ^ 32) ∧
    WritesReg (exec (.srli rt ra n) s) s rt (fun v => v.toNat = (s.reg ra).toNat / 2 ^ n.toNat) ∧
    WritesReg (exec (.srai rt ra n) s) s rt (fun v =>
      v.toInt = Int.fdiv (s.reg ra).toInt (2 ^ n.toNat)) ∧
    WritesReg (exec (.rotri rt ra n) s) s rt (fun v =>
      ∀ k < 32, v.getLsbD k = (s.reg ra).getLsbD ((k + n.toNat) % 32))

/-- As the immediate forms, the amount being x[rb] modulo 32; an amount of 0 gives x[ra] in all eight instructions.
(R214, R215, R216, R217, R218) -/
def Obligations.ShiftsByARegister : Prop :=
  (∀ (s : State) (rt ra rb : RegIdx),
    WritesReg (exec (.sll rt ra rb) s) s rt (fun v =>
      v.toNat = (s.reg ra).toNat * 2 ^ ((s.reg rb).toNat % 32) % 2 ^ 32) ∧
    WritesReg (exec (.srl rt ra rb) s) s rt (fun v => v.toNat = (s.reg ra).toNat / 2 ^ ((s.reg rb).toNat % 32)) ∧
    WritesReg (exec (.sra rt ra rb) s) s rt (fun v =>
      v.toInt = Int.fdiv (s.reg ra).toInt (2 ^ ((s.reg rb).toNat % 32))) ∧
    WritesReg (exec (.rotr rt ra rb) s) s rt (fun v =>
      ∀ k < 32, v.getLsbD k = (s.reg ra).getLsbD ((k + ((s.reg rb).toNat % 32)) % 32))) ∧
    (∀ v : Word, lsl v 0 = v ∧ lsr v 0 = v ∧ asr v 0 = v ∧ ror v 0 = v)

/-- mults64 and the s forms multiply signed values, the others unsigned ones; each completes in every state, for each of
the ND d registers, and changes nothing but d[k] and pc. (R221, R222, R223, R224, R225, R226) -/
def Obligations.DoubleWordProducts : Prop :=
  ∀ (s : State) (k : Nat) (ra rb : RegIdx), k < s.params.nd →
    WritesD (exec (.mults64 k ra rb) s) s k (fun v => v.toInt = (s.reg ra).toInt * (s.reg rb).toInt) ∧
    WritesD (exec (.mult64 k ra rb) s) s k (fun v => v.toNat = (s.reg ra).toNat * (s.reg rb).toNat) ∧
    WritesD (exec (.madds64 k ra rb) s) s k
      (fun v => (v.toNat : Int) = ((s.dreg k).toNat + (s.reg ra).toInt * (s.reg rb).toInt) % 2 ^ 64) ∧
    WritesD (exec (.madd64 k ra rb) s) s k
      (fun v => (v.toNat : Int) = ((s.dreg k).toNat + (s.reg ra).toNat * (s.reg rb).toNat) % 2 ^ 64) ∧
    WritesD (exec (.msubs64 k ra rb) s) s k
      (fun v => (v.toNat : Int) = ((s.dreg k).toNat - (s.reg ra).toInt * (s.reg rb).toInt) % 2 ^ 64) ∧
    WritesD (exec (.msub64 k ra rb) s) s k
      (fun v => (v.toNat : Int) = ((s.dreg k).toNat - (s.reg ra).toNat * (s.reg rb).toNat) % 2 ^ 64)

/-- The low half is taken modulo 2^32 and the high half keeps its value. Each completes in every state, for each of the
ND d registers, and changes nothing else but pc. (R220, R227, R228, R229) -/
def Obligations.SingleWordProducts : Prop :=
  (∀ (s : State) (rt ra rb : RegIdx),
      WritesReg (exec (.mul rt ra rb) s) s rt (fun v => v.toNat = (s.reg ra).toNat * (s.reg rb).toNat % 2 ^ 32)) ∧
    ∀ (s : State) (k : Nat) (ra rb : RegIdx), k < s.params.nd →
    WritesD (exec (.mult32 k ra rb) s) s k (fun v => v.extractLsb' 32 32 = (s.dreg k).extractLsb' 32 32 ∧
      v.toNat % 2 ^ 32 = (s.reg ra).toNat * (s.reg rb).toNat % 2 ^ 32) ∧
    WritesD (exec (.madd32 k ra rb) s) s k (fun v => v.extractLsb' 32 32 = (s.dreg k).extractLsb' 32 32 ∧
      v.toNat % 2 ^ 32 = ((s.dreg k).toNat % 2 ^ 32 + (s.reg ra).toNat * (s.reg rb).toNat) % 2 ^ 32) ∧
    WritesD (exec (.msub32 k ra rb) s) s k (fun v => v.extractLsb' 32 32 = (s.dreg k).extractLsb' 32 32 ∧
      ((v.toNat % 2 ^ 32 : Nat) : Int) =
        (((s.dreg k).toNat % 2 ^ 32 : Nat) - (s.reg ra).toNat * (s.reg rb).toNat) % 2 ^ 32)

/-- For each of the ND d registers. For a divisor that is not zero it completes, with quotient times divisor plus
remainder equal to the dividend and the remainder below the divisor; nothing else changes but pc. For a divisor of
zero it is refused. (R233) -/
def Obligations.UnsignedDivisionResult : Prop :=
  ∀ (s : State) (k : Nat) (ra rb : RegIdx), k < s.params.nd →
    (s.reg rb ≠ 0#32 → WritesD (exec (.div k ra rb) s) s k (fun v =>
      v.toNat % 2 ^ 32 = (s.reg ra).toNat / (s.reg rb).toNat ∧
      v.toNat / 2 ^ 32 = (s.reg ra).toNat - (s.reg ra).toNat / (s.reg rb).toNat * (s.reg rb).toNat ∧
      v.toNat / 2 ^ 32 < (s.reg rb).toNat ∧
      v.toNat % 2 ^ 32 * (s.reg rb).toNat + v.toNat / 2 ^ 32 = (s.reg ra).toNat)) ∧
    (s.reg rb = 0#32 → exec (.div k ra rb) s = .refused (.divideUndefined .zero))

/-- For each of the ND d registers. For a defined division it completes: the low half is the quotient rounded down or
toward zero, the high half the dividend less quotient times divisor, smaller in size than the divisor; nothing else
changes but pc. Zero divisors and -2^31 / -1 are refused. (R234) -/
def Obligations.SignedDivisionResult : Prop :=
  ∀ (s : State) (k : Nat) (ra rb : RegIdx), k < s.params.nd →
    (s.reg rb ≠ 0#32 → ¬ (s.reg ra = 0x80000000#32 ∧ s.reg rb = 0xFFFFFFFF#32) →
      WritesD (exec (.divs k ra rb) s) s k (fun v =>
        (v.extractLsb' 0 32).toInt = (match s.params.divsRound with
          | .floor => Int.fdiv (s.reg ra).toInt (s.reg rb).toInt
          | .trunc => Int.tdiv (s.reg ra).toInt (s.reg rb).toInt) ∧
        (v.extractLsb' 0 32).toInt * (s.reg rb).toInt + (v.extractLsb' 32 32).toInt = (s.reg ra).toInt ∧
        (v.extractLsb' 32 32).toInt.natAbs < (s.reg rb).toInt.natAbs)) ∧
    (s.reg rb = 0#32 → exec (.divs k ra rb) s = .refused (.divideUndefined .zero)) ∧
    (s.reg ra = 0x80000000#32 ∧ s.reg rb = 0xFFFFFFFF#32 →
      exec (.divs k ra rb) s = .refused (.divideUndefined .overflow))

/-- div and divs refuse a zero divisor; divs refuses 0x80000000 by 0xFFFFFFFF, for each of the ND d registers. No state
follows. (R235) -/
def Obligations.UndefinedDivisionsAreRefused : Prop :=
  ∀ (s : State) (k : Nat) (ra rb : RegIdx), k < s.params.nd →
    (s.reg rb = 0#32 → exec (.div k ra rb) s = .refused (.divideUndefined .zero) ∧
      exec (.divs k ra rb) s = .refused (.divideUndefined .zero)) ∧
    (s.reg ra = 0x80000000#32 → s.reg rb = 0xFFFFFFFF#32 →
      exec (.divs k ra rb) s = .refused (.divideUndefined .overflow))

/-- Where the divisor divides the dividend, or both have the same sign, divs under floor and under trunc write the same
64 bits. (R234) -/
def Obligations.RoundingsAgreeOnExactAndSameSign : Prop :=
  ∀ a b : Word, b ≠ 0#32 → (b.toInt ∣ a.toInt ∨ a.msb = b.msb) →
    signedDivide .floor a b = signedDivide .trunc a b

/-- Writing one half leaves the other as it was; a selector outside USR_SET is NotAnInstruction; nothing else changes
but pc. (R230, R231) -/
def Obligations.UserSpecialRegisterMoves : Prop :=
  ∀ (s : State) (rt : RegIdx) (u : UsrIdx),
    (∀ k, s.params.usrTarget u = some (.half k .lo) →
      WritesReg (exec (.mfusr rt u) s) s rt (· = (s.dreg k).extractLsb' 0 32) ∧
      WritesD (exec (.mtusr rt u) s) s k (fun v =>
        v.extractLsb' 0 32 = s.reg rt ∧ v.extractLsb' 32 32 = (s.dreg k).extractLsb' 32 32)) ∧
    (∀ k, s.params.usrTarget u = some (.half k .hi) →
      WritesReg (exec (.mfusr rt u) s) s rt (· = (s.dreg k).extractLsb' 32 32) ∧
      WritesD (exec (.mtusr rt u) s) s k (fun v =>
        v.extractLsb' 32 32 = s.reg rt ∧ v.extractLsb' 0 32 = (s.dreg k).extractLsb' 0 32)) ∧
    (s.params.usrTarget u = some .entry →
      WritesReg (exec (.mfusr rt u) s) s rt (· = s.usrEntry u) ∧
      ∃ t, exec (.mtusr rt u) s = .next t ∧ (∀ u', t.usrEntry u' = if u' = u then s.reg rt else s.usrEntry u') ∧
        Advanced s t ∧ SameRegs s t [] ∧ SameD s t [] ∧ SameBytes s t ∧ SamePsw s t ∧ t.sr = s.sr ∧
        t.cache = s.cache ∧ t.run = s.run ∧ t.params = s.params) ∧
    (s.params.usrTarget u = none →
      (∃ w, exec (.mfusr rt u) s = .fault (.notAnInstruction s.pc w)) ∧
      (∃ w, exec (.mtusr rt u) s = .fault (.notAnInstruction s.pc w)))

/-- For every selector of USR_SET, half or entry, and all registers. (R36, R37, R230, R231) -/
def Obligations.UserSpecialWriteThenRead : Prop :=
  ∀ (s : State) (rt rt' : RegIdx) (u : UsrIdx), (s.params.usrTarget u).isSome = true →
    ∃ t v, exec (.mtusr rt u) s = .next t ∧ exec (.mfusr rt' u) t = .next v ∧ v.reg rt' = s.reg rt

/-- mfsr of a member of SRIDX_SET writes its 32 bits to x[rt]; mtsr of a member of SR_PLAIN writes x[rt] to it; nothing
else changes but pc. An index outside SRIDX_SET is NotAnInstruction; a write outside SR_PLAIN is refused, and so is
either at PSW_INDEX without a layout, each under its own mnemonic. (R113, R114) -/
def Obligations.SystemRegisterMoves : Prop :=
  ∀ (s : State) (rt : RegIdx) (n : SrIdx),
    (s.params.hasSr n = true → n ≠ s.params.pswIndex →
      WritesReg (exec (.mfsr rt n) s) s rt (· = s.sysReg n)) ∧
    (s.params.hasSr n = true → n ≠ s.params.pswIndex → s.params.srIsPlain n = true →
      ∃ t, exec (.mtsr rt n) s = .next t ∧ (∀ n', t.sysReg n' = if n' = n then s.reg rt else s.sysReg n') ∧
        Advanced s t ∧ SameRegs s t [] ∧ SameD s t [] ∧ SameBytes s t ∧ SamePsw s t ∧ t.usr = s.usr ∧
        t.cache = s.cache ∧ t.run = s.run ∧ t.params = s.params) ∧
    (s.params.hasSr n = true → n ≠ s.params.pswIndex → s.params.srIsPlain n = false →
      exec (.mtsr rt n) s = .refused (.unmodelled .mtsrSideEffects)) ∧
    (s.params.hasSr n = true → n = s.params.pswIndex → s.params.pswBits = none →
      exec (.mfsr rt n) s = .refused (.unmodelled .mfsrPsw) ∧
      exec (.mtsr rt n) s = .refused (.unmodelled .mtsrPsw)) ∧
    (s.params.hasSr n = false →
      (∃ w, exec (.mfsr rt n) s = .fault (.notAnInstruction s.pc w)) ∧
      (∃ w, exec (.mtsr rt n) s = .fault (.notAnInstruction s.pc w)))

/-- With the layout supplied and its four places distinct, the word read has the four fields at their places, and a
write sets the four fields from those bits of x[rt]. What the other bits read or do is left open (log entries 25 and
26). That mtsr at PSW_INDEX completes whether or not PSW_INDEX is in SR_PLAIN, that is, that R111 prevails over R112
and R114 there, is the model's choice (log entry 12). (R30, R111, R112, R114) -/
def Obligations.PswThroughSystemRegisters : Prop :=
  ∀ (s : State) (rt : RegIdx) (l : PswBits),
    s.params.hasSr s.params.pswIndex = true → s.params.pswBits = some l →
    [l.be, l.gie, l.it, l.dt].Nodup →
    WritesReg (exec (.mfsr rt s.params.pswIndex) s) s rt (fun v =>
      v.getLsbD l.be.val = s.psw.be ∧ v.getLsbD l.gie.val = s.psw.gie ∧
      v.getLsbD l.it.val = s.psw.it ∧ v.getLsbD l.dt.val = s.psw.dt) ∧
    ∃ t, exec (.mtsr rt s.params.pswIndex) s = .next t ∧
      t.psw.be = (s.reg rt).getLsbD l.be.val ∧ t.psw.gie = (s.reg rt).getLsbD l.gie.val ∧
      t.psw.it = (s.reg rt).getLsbD l.it.val ∧ t.psw.dt = (s.reg rt).getLsbD l.dt.val ∧
      Advanced s t ∧ SameRegs s t [] ∧ SameD s t [] ∧ SameBytes s t ∧ SameFiles s t

/-- The first holds of every index that can be read, PSW included; the second of every plain index. That the bits of PSW
without a name, which R111 leaves unspecified, are the same at the two reads is the model's choice (log entry 25).
(R111, R113, R114) -/
def Obligations.SystemRegisterReadsRepeat : Prop :=
  ∀ (s : State) (rt rt' : RegIdx) (n : SrIdx),
    (∀ t, exec (.mfsr rt n) s = .next t → ∃ v, exec (.mfsr rt' n) t = .next v ∧ v.reg rt' = t.reg rt) ∧
    (n ≠ s.params.pswIndex → ∀ t, exec (.mtsr rt n) s = .next t →
      ∃ v, exec (.mfsr rt' n) t = .next v ∧ v.reg rt' = s.reg rt)

/-- Where the condition is false x[rt] keeps its value; both complete in every state and change nothing else but pc.
(R240, R241) -/
def Obligations.ConditionalMoves : Prop :=
  ∀ (s : State) (rt ra rb : RegIdx),
    WritesReg (exec (.cmovz rt ra rb) s) s rt (· = if s.reg rb = 0#32 then s.reg ra else s.reg rt) ∧
    WritesReg (exec (.cmovn rt ra rb) s) s rt (· = if s.reg rb = 0#32 then s.reg rt else s.reg ra)

/-- From an even pc, j changes only pc; jal also writes pc + 4 to LP. From an odd pc both raise InstructionMisaligned
and write nothing. (R160, R161) -/
def Obligations.PcRelativeJumps : Prop :=
  ∀ (s : State) (imm : BitVec 24),
    (s.pc.toNat % 2 = 0 →
      GoesTo (exec (.j imm) s) s (s.target imm.toInt) [] (fun _ => True) ∧
      GoesTo (exec (.jal imm) s) s (s.target imm.toInt) [s.params.lpIndex]
        (fun t => t.reg s.params.lpIndex = s.pc + 4#32)) ∧
    (s.pc.toNat % 2 = 1 →
      exec (.j imm) s = .fault (.instructionMisaligned (s.target imm.toInt)) ∧
      exec (.jal imm) s = .fault (.instructionMisaligned (s.target imm.toInt)))

/-- For an even x[rb]. jral writes pc + 4 to x[rt], or to LP in the one-operand form, after the target is read. For an
odd x[rb] all four raise InstructionMisaligned. (R162, R163, R164) -/
def Obligations.RegisterJumps : Prop :=
  ∀ (s : State) (rt rb : RegIdx),
    ((s.reg rb).toNat % 2 = 0 →
      GoesTo (exec (.jr rb) s) s (s.reg rb) [] (fun _ => True) ∧
      GoesTo (exec (.ret rb) s) s (s.reg rb) [] (fun _ => True) ∧
      GoesTo (exec (.jral rt rb) s) s (s.reg rb) [rt] (fun t => t.reg rt = s.pc + 4#32) ∧
      GoesTo (exec (.jralLp rb) s) s (s.reg rb) [s.params.lpIndex]
        (fun t => t.reg s.params.lpIndex = s.pc + 4#32)) ∧
    ((s.reg rb).toNat % 2 = 1 →
      exec (.jr rb) s = .fault (.instructionMisaligned (s.reg rb)) ∧
      exec (.ret rb) s = .fault (.instructionMisaligned (s.reg rb)) ∧
      exec (.jral rt rb) s = .fault (.instructionMisaligned (s.reg rb)) ∧
      exec (.jralLp rb) s = .fault (.instructionMisaligned (s.reg rb)))

/-- For an even x[rb] ret.itoff clears IT, ret.toff clears IT and DT, and BE, GIE and all else stay. For an odd x[rb]
both raise InstructionMisaligned. (R261, R262) -/
def Obligations.TranslationOffReturns : Prop :=
  ∀ (s : State) (rb : RegIdx),
    ((s.reg rb).toNat % 2 = 0 →
      (∃ t, exec (.retItoff rb) s = .next t ∧ t.pc = s.reg rb ∧
        t.psw = ⟨s.psw.be, s.psw.gie, false, s.psw.dt⟩ ∧ t.pswEpoch = s.pswEpoch ∧
        SameRegs s t [] ∧ SameD s t [] ∧ SameBytes s t ∧ SameFiles s t) ∧
      (∃ t, exec (.retToff rb) s = .next t ∧ t.pc = s.reg rb ∧
        t.psw = ⟨s.psw.be, s.psw.gie, false, false⟩ ∧ t.pswEpoch = s.pswEpoch ∧
        SameRegs s t [] ∧ SameD s t [] ∧ SameBytes s t ∧ SameFiles s t)) ∧
    ((s.reg rb).toNat % 2 = 1 →
      exec (.retItoff rb) s = .fault (.instructionMisaligned (s.reg rb)) ∧
      exec (.retToff rb) s = .fault (.instructionMisaligned (s.reg rb)))

/-- From an even pc; only pc changes. The condition of each of the eight is written out. From an odd pc a taken branch
raises InstructionMisaligned. (R165, R166, R167, R168, R169, R170, R171, R172) -/
def Obligations.ConditionalBranches : Prop :=
  ∀ (s : State) (rt ra : RegIdx) (d14 : BitVec 14) (d16 : BitVec 16),
    (s.pc.toNat % 2 = 0 →
      GoesTo (exec (.beq rt ra d14) s) s (if s.reg rt = s.reg ra then s.target d14.toInt else s.pc + 4#32) []
        (fun _ => True) ∧
      GoesTo (exec (.bne rt ra d14) s) s (if s.reg rt ≠ s.reg ra then s.target d14.toInt else s.pc + 4#32) []
        (fun _ => True) ∧
      GoesTo (exec (.beqz rt d16) s) s (if (s.reg rt).toNat = 0 then s.target d16.toInt else s.pc + 4#32) []
        (fun _ => True) ∧
      GoesTo (exec (.bnez rt d16) s) s (if (s.reg rt).toNat ≠ 0 then s.target d16.toInt else s.pc + 4#32) []
        (fun _ => True) ∧
      GoesTo (exec (.bgez rt d16) s) s (if 0 ≤ (s.reg rt).toInt then s.target d16.toInt else s.pc + 4#32) []
        (fun _ => True) ∧
      GoesTo (exec (.bltz rt d16) s) s (if (s.reg rt).toInt < 0 then s.target d16.toInt else s.pc + 4#32) []
        (fun _ => True) ∧
      GoesTo (exec (.bgtz rt d16) s) s (if 0 < (s.reg rt).toInt then s.target d16.toInt else s.pc + 4#32) []
        (fun _ => True) ∧
      GoesTo (exec (.blez rt d16) s) s (if (s.reg rt).toInt ≤ 0 then s.target d16.toInt else s.pc + 4#32) []
        (fun _ => True)) ∧
    (s.pc.toNat % 2 = 1 →
      (s.reg rt = s.reg ra →
        exec (.beq rt ra d14) s = .fault (.instructionMisaligned (s.target d14.toInt))) ∧
      (s.reg rt ≠ s.reg ra →
        exec (.bne rt ra d14) s = .fault (.instructionMisaligned (s.target d14.toInt))) ∧
      ((s.reg rt).toNat = 0 →
        exec (.beqz rt d16) s = .fault (.instructionMisaligned (s.target d16.toInt))) ∧
      ((s.reg rt).toNat ≠ 0 →
        exec (.bnez rt d16) s = .fault (.instructionMisaligned (s.target d16.toInt))) ∧
      (0 ≤ (s.reg rt).toInt →
        exec (.bgez rt d16) s = .fault (.instructionMisaligned (s.target d16.toInt))) ∧
      ((s.reg rt).toInt < 0 →
        exec (.bltz rt d16) s = .fault (.instructionMisaligned (s.target d16.toInt))) ∧
      (0 < (s.reg rt).toInt →
        exec (.bgtz rt d16) s = .fault (.instructionMisaligned (s.target d16.toInt))) ∧
      ((s.reg rt).toInt ≤ 0 →
        exec (.blez rt d16) s = .fault (.instructionMisaligned (s.target d16.toInt))))

/-- Also from an odd pc. bgezal and bltzal, for rt other than LP_INDEX, write pc + 4 to LP all the same. A part of R177:
"A not-taken branch never raises it." (R173, R174, R177, R178) -/
def Obligations.BranchesNotTakenNeverRaise : Prop :=
  ∀ (s : State) (rt ra : RegIdx) (d14 : BitVec 14) (d16 : BitVec 16),
    (¬ (s.reg rt = s.reg ra) → GoesTo (exec (.beq rt ra d14) s) s (s.pc + 4#32) [] (fun _ => True)) ∧
    (¬ (s.reg rt ≠ s.reg ra) → GoesTo (exec (.bne rt ra d14) s) s (s.pc + 4#32) [] (fun _ => True)) ∧
    (¬ ((s.reg rt).toNat = 0) → GoesTo (exec (.beqz rt d16) s) s (s.pc + 4#32) [] (fun _ => True)) ∧
    (¬ ((s.reg rt).toNat ≠ 0) → GoesTo (exec (.bnez rt d16) s) s (s.pc + 4#32) [] (fun _ => True)) ∧
    (¬ (0 ≤ (s.reg rt).toInt) → GoesTo (exec (.bgez rt d16) s) s (s.pc + 4#32) [] (fun _ => True)) ∧
    (¬ ((s.reg rt).toInt < 0) → GoesTo (exec (.bltz rt d16) s) s (s.pc + 4#32) [] (fun _ => True)) ∧
    (¬ (0 < (s.reg rt).toInt) → GoesTo (exec (.bgtz rt d16) s) s (s.pc + 4#32) [] (fun _ => True)) ∧
    (¬ ((s.reg rt).toInt ≤ 0) → GoesTo (exec (.blez rt d16) s) s (s.pc + 4#32) [] (fun _ => True)) ∧
    (rt ≠ s.params.lpIndex → ¬ (0 ≤ (s.reg rt).toInt) →
      GoesTo (exec (.bgezal rt d16) s) s (s.pc + 4#32) [s.params.lpIndex]
        (fun t => t.reg s.params.lpIndex = s.pc + 4#32)) ∧
    (rt ≠ s.params.lpIndex → ¬ ((s.reg rt).toInt < 0) →
      GoesTo (exec (.bltzal rt d16) s) s (s.pc + 4#32) [s.params.lpIndex]
        (fun t => t.reg s.params.lpIndex = s.pc + 4#32))

/-- For rt other than LP_INDEX, from an even pc: LP holds pc + 4, and pc is the target where the sign test holds, else
pc + 4; nothing else changes. A taken branch from an odd pc raises InstructionMisaligned; rt = LP_INDEX is refused.
(R173, R174) -/
def Obligations.LinkingBranches : Prop :=
  ∀ (s : State) (rt : RegIdx) (d : BitVec 16),
    (rt ≠ s.params.lpIndex → s.pc.toNat % 2 = 0 →
      GoesTo (exec (.bgezal rt d) s) s
        (if 0 ≤ (s.reg rt).toInt then s.target d.toInt else s.pc + 4#32) [s.params.lpIndex]
        (fun t => t.reg s.params.lpIndex = s.pc + 4#32) ∧
      GoesTo (exec (.bltzal rt d) s) s
        (if (s.reg rt).toInt < 0 then s.target d.toInt else s.pc + 4#32) [s.params.lpIndex]
        (fun t => t.reg s.params.lpIndex = s.pc + 4#32)) ∧
    (rt ≠ s.params.lpIndex → s.pc.toNat % 2 = 1 →
      (0 ≤ (s.reg rt).toInt → exec (.bgezal rt d) s =
        .fault (.instructionMisaligned (s.target d.toInt))) ∧
      ((s.reg rt).toInt < 0 → exec (.bltzal rt d) s =
        .fault (.instructionMisaligned (s.target d.toInt)))) ∧
    (rt = s.params.lpIndex → exec (.bgezal rt d) s = .refused (.operandOverlap .rtLp) ∧
      exec (.bltzal rt d) s = .refused (.operandOverlap .rtLp))

/-- Where the access is aligned, translates to p and is allocated, x[rt] is the value at p in the byte order of PSW.BE,
zero- or sign-extended; nothing else changes but pc. It holds for rt = ra. (R120, R121, R122, R123, R124) -/
def Obligations.ImmediateOffsetLoads : Prop :=
  ∀ (s : State) (rt ra : RegIdx) (imm : BitVec 15) (p : Word),
    (s.Loads (s.reg ra + scaled imm 2) 4 p → LoadsTo (exec (.lwi rt ra imm) s) s rt (s.wordAt p)) ∧
    (s.Loads (s.reg ra + scaled imm 1) 2 p →
      LoadsTo (exec (.lhi rt ra imm) s) s rt ((s.halfAt p).setWidth 32) ∧
      LoadsTo (exec (.lhsi rt ra imm) s) s rt ((s.halfAt p).signExtend 32)) ∧
    (s.Loads (s.reg ra + scaled imm 0) 1 p →
      LoadsTo (exec (.lbi rt ra imm) s) s rt ((s.byteAt p).setWidth 32) ∧
      LoadsTo (exec (.lbsi rt ra imm) s) s rt ((s.byteAt p).signExtend 32))

/-- For rt other than ra, where the access at the old x[ra] is aligned, translates to p and is allocated; nothing else
changes but pc. For rt = ra they are refused. (R128, R129, R130, R131, R132) -/
def Obligations.PostIncrementLoadsImmediate : Prop :=
  ∀ (s : State) (rt ra : RegIdx) (imm : BitVec 15) (p : Word),
    (rt ≠ ra → s.Loads (s.reg ra) 4 p →
      LoadsPost (exec (.lwiBi rt ra imm) s) s rt ra (s.wordAt p) (s.reg ra + scaled imm 2)) ∧
    (rt ≠ ra → s.Loads (s.reg ra) 2 p →
      LoadsPost (exec (.lhiBi rt ra imm) s) s rt ra ((s.halfAt p).setWidth 32) (s.reg ra + scaled imm 1) ∧
      LoadsPost (exec (.lhsiBi rt ra imm) s) s rt ra ((s.halfAt p).signExtend 32) (s.reg ra + scaled imm 1)) ∧
    (rt ≠ ra → s.Loads (s.reg ra) 1 p →
      LoadsPost (exec (.lbiBi rt ra imm) s) s rt ra ((s.byteAt p).setWidth 32) (s.reg ra + scaled imm 0) ∧
      LoadsPost (exec (.lbsiBi rt ra imm) s) s rt ra ((s.byteAt p).signExtend 32) (s.reg ra + scaled imm 0)) ∧
    (rt = ra →
      exec (.lwiBi rt ra imm) s = .refused (.operandOverlap .rtRa) ∧
      exec (.lhiBi rt ra imm) s = .refused (.operandOverlap .rtRa) ∧
      exec (.lhsiBi rt ra imm) s = .refused (.operandOverlap .rtRa) ∧
      exec (.lbiBi rt ra imm) s = .refused (.operandOverlap .rtRa) ∧
      exec (.lbsiBi rt ra imm) s = .refused (.operandOverlap .rtRa))

/-- As the immediate forms, for every overlap of rt, ra and rb and every sv of SV_BITS bits. (R140, R141, R142, R143,
R144) -/
def Obligations.RegisterOffsetLoads : Prop :=
  ∀ (s : State) (rt ra rb : RegIdx) (sv : Nat) (p : Word), sv < 2 ^ s.params.svBits →
    (s.Loads (s.reg ra + scaledIndex (s.reg rb) sv) 4 p →
      LoadsTo (exec (.lw rt ra rb sv) s) s rt (s.wordAt p)) ∧
    (s.Loads (s.reg ra + scaledIndex (s.reg rb) sv) 2 p →
      LoadsTo (exec (.lh rt ra rb sv) s) s rt ((s.halfAt p).setWidth 32) ∧
      LoadsTo (exec (.lhs rt ra rb sv) s) s rt ((s.halfAt p).signExtend 32)) ∧
    (s.Loads (s.reg ra + scaledIndex (s.reg rb) sv) 1 p →
      LoadsTo (exec (.lb rt ra rb sv) s) s rt ((s.byteAt p).setWidth 32) ∧
      LoadsTo (exec (.lbs rt ra rb sv) s) s rt ((s.byteAt p).signExtend 32))

/-- For every sv of SV_BITS bits, and rt other than ra and rb (ra = rb is allowed), where the access at the old x[ra] is
aligned, translates to p and is allocated; nothing else changes but pc. For rt = ra or rt = rb they are refused.
(R148, R149, R150, R151, R152) -/
def Obligations.PostIncrementLoadsRegister : Prop :=
  ∀ (s : State) (rt ra rb : RegIdx) (sv : Nat) (p : Word), sv < 2 ^ s.params.svBits →
    (rt ≠ ra → rt ≠ rb → s.Loads (s.reg ra) 4 p →
      LoadsPost (exec (.lwBi rt ra rb sv) s) s rt ra (s.wordAt p) (s.reg ra + scaledIndex (s.reg rb) sv)) ∧
    (rt ≠ ra → rt ≠ rb → s.Loads (s.reg ra) 2 p →
      LoadsPost (exec (.lhBi rt ra rb sv) s) s rt ra ((s.halfAt p).setWidth 32)
        (s.reg ra + scaledIndex (s.reg rb) sv) ∧
      LoadsPost (exec (.lhsBi rt ra rb sv) s) s rt ra ((s.halfAt p).signExtend 32)
        (s.reg ra + scaledIndex (s.reg rb) sv)) ∧
    (rt ≠ ra → rt ≠ rb → s.Loads (s.reg ra) 1 p →
      LoadsPost (exec (.lbBi rt ra rb sv) s) s rt ra ((s.byteAt p).setWidth 32)
        (s.reg ra + scaledIndex (s.reg rb) sv) ∧
      LoadsPost (exec (.lbsBi rt ra rb sv) s) s rt ra ((s.byteAt p).signExtend 32)
        (s.reg ra + scaledIndex (s.reg rb) sv)) ∧
    (rt = ra ∨ rt = rb →
      (∃ c, exec (.lwBi rt ra rb sv) s = .refused (.operandOverlap c)) ∧
      (∃ c, exec (.lhBi rt ra rb sv) s = .refused (.operandOverlap c)) ∧
      (∃ c, exec (.lhsBi rt ra rb sv) s = .refused (.operandOverlap c)) ∧
      (∃ c, exec (.lbBi rt ra rb sv) s = .refused (.operandOverlap c)) ∧
      (∃ c, exec (.lbsBi rt ra rb sv) s = .refused (.operandOverlap c)))

/-- swi, shi, sbi store at x[ra] plus the scaled offset; the .bi forms store at the old x[ra] and then add the offset to
it. Where the access is aligned, translates to p and may be stored to, the stored bytes are as R52 lists them, every
other byte and register is as before, for rt = ra too. (R125, R126, R127, R133, R134, R135) -/
def Obligations.ImmediateOffsetStores : Prop :=
  ∀ (s : State) (rt ra : RegIdx) (imm : BitVec 15) (p : Word),
    (s.Stores (s.reg ra + scaled imm 2) 4 p →
      StoresBytes (exec (.swi rt ra imm) s) s p (wordBytes s.psw.be (s.reg rt)) [] (fun _ => True)) ∧
    (s.Stores (s.reg ra + scaled imm 1) 2 p →
      StoresBytes (exec (.shi rt ra imm) s) s p (halfBytes s.psw.be (s.reg rt)) [] (fun _ => True)) ∧
    (s.Stores (s.reg ra + scaled imm 0) 1 p →
      StoresBytes (exec (.sbi rt ra imm) s) s p [(s.reg rt).extractLsb' 0 8] [] (fun _ => True)) ∧
    (s.Stores (s.reg ra) 4 p →
      StoresBytes (exec (.swiBi rt ra imm) s) s p (wordBytes s.psw.be (s.reg rt)) [ra]
        (fun t => t.reg ra = s.reg ra + scaled imm 2)) ∧
    (s.Stores (s.reg ra) 2 p →
      StoresBytes (exec (.shiBi rt ra imm) s) s p (halfBytes s.psw.be (s.reg rt)) [ra]
        (fun t => t.reg ra = s.reg ra + scaled imm 1)) ∧
    (s.Stores (s.reg ra) 1 p →
      StoresBytes (exec (.sbiBi rt ra imm) s) s p [(s.reg rt).extractLsb' 0 8] [ra]
        (fun t => t.reg ra = s.reg ra + scaled imm 0))

/-- sw, sh, sb store at x[ra] plus the shifted x[rb]; the .bi forms store at the old x[ra] and then add the shifted
x[rb] to it. As the immediate forms, for every overlap of rt, ra and rb and every sv of SV_BITS bits. (R145, R146,
R147, R153, R154, R155) -/
def Obligations.RegisterOffsetStores : Prop :=
  ∀ (s : State) (rt ra rb : RegIdx) (sv : Nat) (p : Word), sv < 2 ^ s.params.svBits →
    (s.Stores (s.reg ra + scaledIndex (s.reg rb) sv) 4 p →
      StoresBytes (exec (.sw rt ra rb sv) s) s p (wordBytes s.psw.be (s.reg rt)) [] (fun _ => True)) ∧
    (s.Stores (s.reg ra + scaledIndex (s.reg rb) sv) 2 p →
      StoresBytes (exec (.sh rt ra rb sv) s) s p (halfBytes s.psw.be (s.reg rt)) [] (fun _ => True)) ∧
    (s.Stores (s.reg ra + scaledIndex (s.reg rb) sv) 1 p →
      StoresBytes (exec (.sb rt ra rb sv) s) s p [(s.reg rt).extractLsb' 0 8] [] (fun _ => True)) ∧
    (s.Stores (s.reg ra) 4 p →
      StoresBytes (exec (.swBi rt ra rb sv) s) s p (wordBytes s.psw.be (s.reg rt)) [ra]
        (fun t => t.reg ra = s.reg ra + scaledIndex (s.reg rb) sv)) ∧
    (s.Stores (s.reg ra) 2 p →
      StoresBytes (exec (.shBi rt ra rb sv) s) s p (halfBytes s.psw.be (s.reg rt)) [ra]
        (fun t => t.reg ra = s.reg ra + scaledIndex (s.reg rb) sv)) ∧
    (s.Stores (s.reg ra) 1 p →
      StoresBytes (exec (.sbBi rt ra rb sv) s) s p [(s.reg rt).extractLsb' 0 8] [ra]
        (fun t => t.reg ra = s.reg ra + scaledIndex (s.reg rb) sv))

/-- For all twenty halfword and word loads and stores (and, as no byte address is misaligned, for none of the byte
forms), unless the instruction is ill-formed, or refused for an operand overlap, first (R286). (R55) -/
def Obligations.MisalignedAccessesRaise : Prop :=
  (∀ (i : Instr) (s : State) (a : Word) (n : Nat), dataAccess i s = some (a, n) →
      i.wellFormed s.params = true → overlapsLoad i = false → a.toNat % n ≠ 0 → exec i s = .fault (.dataMisaligned a n)) ∧
    (∀ (i : Instr) (s : State) (a : Word), dataAccess i s = some (a, 1) →
      ∀ a' n, exec i s ≠ .fault (.dataMisaligned a' n))

/-- For all well-formed loads (unallocated bytes) and stores (unallocated bytes, and at the binary level program text),
after translation; where translation faults the access faults before. The name of the translation fault is the
model's (log entry 15), and so is which address is reported under translation (log entry 16). (R60, R61, R67, R286) -/
def Obligations.UnallocatedAccessesRaise : Prop :=
  ∀ (i : Instr) (s : State) (a : Word) (n : Nat), dataAccess i s = some (a, n) →
    i.wellFormed s.params = true → overlapsLoad i = false → a.toNat % n = 0 →
    (s.translate .data a = none → exec i s = .fault (.translationFault .data a)) ∧
    (∀ (p : Word) (k : Nat), s.translate .data a = some p → k < n →
      s.admits i (p + BitVec.ofNat 32 k).toNat = false →
      (∀ j < k, s.admits i (p + BitVec.ofNat 32 j).toNat = true) →
      exec i s = .fault (.accessFault (p + BitVec.ofNat 32 k)))

/-- rt = ra in the ten post-increment loads, and rt = rb in the five register forms, whatever the state and the address,
for every sv of SV_BITS bits. ra = rb alone is no overlap: each of the five register forms then completes where its
access does, and adds the shifted old x[ra] to x[ra]. (R138, R158) -/
def Obligations.OverlappingOperandsAreRefused : Prop :=
  ∀ (s : State) (rt ra rb : RegIdx) (imm : BitVec 15) (sv : Nat),
    (exec (.lwiBi rt rt imm) s = .refused (.operandOverlap .rtRa) ∧
      exec (.lhiBi rt rt imm) s = .refused (.operandOverlap .rtRa) ∧
      exec (.lhsiBi rt rt imm) s = .refused (.operandOverlap .rtRa) ∧
      exec (.lbiBi rt rt imm) s = .refused (.operandOverlap .rtRa) ∧
      exec (.lbsiBi rt rt imm) s = .refused (.operandOverlap .rtRa)) ∧
    (sv < 2 ^ s.params.svBits →
      exec (.lwBi rt rt rb sv) s = .refused (.operandOverlap .rtRa) ∧
      exec (.lhBi rt rt rb sv) s = .refused (.operandOverlap .rtRa) ∧
      exec (.lhsBi rt rt rb sv) s = .refused (.operandOverlap .rtRa) ∧
      exec (.lbBi rt rt rb sv) s = .refused (.operandOverlap .rtRa) ∧
      exec (.lbsBi rt rt rb sv) s = .refused (.operandOverlap .rtRa)) ∧
    (sv < 2 ^ s.params.svBits → rt ≠ ra →
      exec (.lwBi rt ra rt sv) s = .refused (.operandOverlap .rtRb) ∧
      exec (.lhBi rt ra rt sv) s = .refused (.operandOverlap .rtRb) ∧
      exec (.lhsBi rt ra rt sv) s = .refused (.operandOverlap .rtRb) ∧
      exec (.lbBi rt ra rt sv) s = .refused (.operandOverlap .rtRb) ∧
      exec (.lbsBi rt ra rt sv) s = .refused (.operandOverlap .rtRb)) ∧
    (sv < 2 ^ s.params.svBits → rt ≠ ra → ∀ p,
      (s.Loads (s.reg ra) 4 p →
        LoadsPost (exec (.lwBi rt ra ra sv) s) s rt ra (s.wordAt p) (s.reg ra + lsl (s.reg ra) sv)) ∧
      (s.Loads (s.reg ra) 2 p →
        LoadsPost (exec (.lhBi rt ra ra sv) s) s rt ra ((s.halfAt p).setWidth 32)
          (s.reg ra + lsl (s.reg ra) sv) ∧
        LoadsPost (exec (.lhsBi rt ra ra sv) s) s rt ra ((s.halfAt p).signExtend 32)
          (s.reg ra + lsl (s.reg ra) sv)) ∧
      (s.Loads (s.reg ra) 1 p →
        LoadsPost (exec (.lbBi rt ra ra sv) s) s rt ra ((s.byteAt p).setWidth 32)
          (s.reg ra + lsl (s.reg ra) sv) ∧
        LoadsPost (exec (.lbsBi rt ra ra sv) s) s rt ra ((s.byteAt p).signExtend 32)
          (s.reg ra + lsl (s.reg ra) sv)))

/-- swi then lwi at the same address gives back x[rt]; with setend.b or setend.l between, changing the byte order, it
gives the bytes in the opposite order. (R51, R52, R53, R63) -/
def Obligations.StoredWordReadBack : Prop :=
  ∀ (s : State) (rt rt' ra : RegIdx) (imm : BitVec 15) (p : Word), s.Stores (s.reg ra + scaled imm 2) 4 p →
    ∃ t, exec (.swi rt ra imm) s = .next t ∧
      (∃ v, exec (.lwi rt' ra imm) t = .next v ∧ v.reg rt' = s.reg rt) ∧
      (s.psw.be = false → ∃ u v, exec .setendB t = .next u ∧ exec (.lwi rt' ra imm) u = .next v ∧
        v.reg rt' = byteReverse (s.reg rt)) ∧
      (s.psw.be = true → ∃ u v, exec .setendL t = .next u ∧ exec (.lwi rt' ra imm) u = .next v ∧
        v.reg rt' = byteReverse (s.reg rt))

/-- Both complete in every state at pc + 4. (R245, R246) -/
def Obligations.BarriersOnlyAdvance : Prop :=
  ∀ s : State, GoesTo (exec .dsb s) s (s.pc + 4#32) [] (fun _ => True) ∧
    GoesTo (exec .isb s) s (s.pc + 4#32) [] (fun _ => True)

/-- setend.b sets BE, setend.l clears it, setgie.e sets GIE, setgie.d clears it; each completes in every state at pc +
4, with every other field and all other state as before. (R264, R265, R266, R267) -/
def Obligations.ModeBitInstructions : Prop :=
  ∀ s : State,
    (∃ t, exec .setendB s = .next t ∧ t.psw = ⟨true, s.psw.gie, s.psw.it, s.psw.dt⟩ ∧
      t.pswEpoch = s.pswEpoch ∧
      Advanced s t ∧ SameRegs s t [] ∧ SameD s t [] ∧ SameBytes s t ∧ SameFiles s t) ∧
    (∃ t, exec .setendL s = .next t ∧ t.psw = ⟨false, s.psw.gie, s.psw.it, s.psw.dt⟩ ∧
      t.pswEpoch = s.pswEpoch ∧
      Advanced s t ∧ SameRegs s t [] ∧ SameD s t [] ∧ SameBytes s t ∧ SameFiles s t) ∧
    (∃ t, exec .setgieE s = .next t ∧ t.psw = ⟨s.psw.be, true, s.psw.it, s.psw.dt⟩ ∧
      t.pswEpoch = s.pswEpoch ∧
      Advanced s t ∧ SameRegs s t [] ∧ SameD s t [] ∧ SameBytes s t ∧ SameFiles s t) ∧
    (∃ t, exec .setgieD s = .next t ∧ t.psw = ⟨s.psw.be, false, s.psw.it, s.psw.dt⟩ ∧
      t.pswEpoch = s.pswEpoch ∧
      Advanced s t ∧ SameRegs s t [] ∧ SameD s t [] ∧ SameBytes s t ∧ SameFiles s t)

/-- The trap event carries the pc of the instruction and the software id. Where TRAP_OPERANDS is not fixed both are
refused. That the operands, where fixed, are a register and a software id comes from general knowledge (R253; log
entry 18). (R250, R251, R253) -/
def Obligations.ConditionalTraps : Prop :=
  ∀ (s : State) (rc : RegIdx) (k : BitVec 15),
    (s.params.trapOperands = .fixed → s.reg rc = 0#32 → exec (.teqz rc k) s = .fault (.trap s.pc (some k)) ∧
      GoesTo (exec (.tnez rc k) s) s (s.pc + 4#32) [] (fun _ => True)) ∧
    (s.params.trapOperands = .fixed → s.reg rc ≠ 0#32 → exec (.tnez rc k) s = .fault (.trap s.pc (some k)) ∧
      GoesTo (exec (.teqz rc k) s) s (s.pc + 4#32) [] (fun _ => True)) ∧
    (s.params.trapOperands = .notFixed → exec (.teqz rc k) s = .refused (.unmodelled .teqz) ∧
      exec (.tnez rc k) s = .refused (.unmodelled .tnez))

/-- In every state and for every software id or wake mode; no state follows. The id or the mode goes with the event
where TRAP_OPERANDS is fixed, and no data does where it is not; that a wake mode is among these operands is the
model's reading of R108 (log entry 18). (R108, R247, R248, R249, R253, R268) -/
def Obligations.EventInstructionsEndTheStep : Prop :=
  ∀ (s : State) (k : BitVec 15) (wake : BitVec 2),
    (s.params.trapOperands = .fixed →
      exec (.brk k) s = .fault (.breakpoint s.pc (some k)) ∧
      exec (.syscall k) s = .fault (.systemCall s.pc (some k)) ∧
      exec (.trap k) s = .fault (.trap s.pc (some k)) ∧
      exec (.standby wake) s = .fault (.standby s.pc (some wake))) ∧
    (s.params.trapOperands = .notFixed →
      exec (.brk k) s = .fault (.breakpoint s.pc none) ∧ exec (.syscall k) s = .fault (.systemCall s.pc none) ∧
      exec (.trap k) s = .fault (.trap s.pc none) ∧ exec (.standby wake) s = .fault (.standby s.pc none))

/-- In every state, and for every operand bits of cctl. (R260, R263) -/
def Obligations.UnmodelledInstructionsAreRefused : Prop :=
  ∀ (s : State) (ops : BitVec 20),
    exec .iret s = .refused (.unmodelled .iret) ∧ exec (.cctl ops) s = .refused (.unmodelled .cctl)
end

