-- ==== Sys2Proof/Laws/Decode.lean ====
section
/-! SUPPORT. The fields of an encoded word, format by format (spec/30_encoding.md R90 to R99). -/

namespace Sys2Proof

theorem extract_append_high {n m s l : Nat} (x : BitVec n) (y : BitVec m) (h : m ≤ s) :
    (x ++ y).extractLsb' s l = x.extractLsb' (s - m) l := by
  apply BitVec.eq_of_getLsbD_eq
  intro i hi
  have h1 : ¬ s + i < m := by omega
  have h2 : s + i - m = s - m + i := by omega
  simp [BitVec.getLsbD_extractLsb', BitVec.getLsbD_append, h1, h2]

theorem extract_append_low {n m s l : Nat} (x : BitVec n) (y : BitVec m) (h : s + l ≤ m) :
    (x ++ y).extractLsb' s l = y.extractLsb' s l := by
  apply BitVec.eq_of_getLsbD_eq
  intro i hi
  have h1 : s + i < m := by omega
  simp [BitVec.getLsbD_extractLsb', BitVec.getLsbD_append, h1]

/-! ### `encI15` -/

@[simp] theorem encI15_top (opc : BitVec 6) (rt ra : RegIdx) (imm : BitVec 15) :
    BitVec.extractLsb' 31 1 (encI15 opc rt ra imm) = 0#1 :=
  (extract_append_high _ _ (by decide)).trans ((extract_append_high _ _ (by decide)).trans ((extract_append_high _ _ (by decide)).trans ((extract_append_high _ _ (by decide)).trans BitVec.extractLsb'_eq_self)))
@[simp] theorem encI15_opc (opc : BitVec 6) (rt ra : RegIdx) (imm : BitVec 15) :
    BitVec.extractLsb' 25 6 (encI15 opc rt ra imm) = opc :=
  (extract_append_high _ _ (by decide)).trans ((extract_append_high _ _ (by decide)).trans ((extract_append_high _ _ (by decide)).trans ((extract_append_low _ _ (by decide)).trans BitVec.extractLsb'_eq_self)))
@[simp] theorem encI15_rt (opc : BitVec 6) (rt ra : RegIdx) (imm : BitVec 15) : fieldRt (encI15 opc rt ra imm) = rt :=
  (extract_append_high _ _ (by decide)).trans ((extract_append_high _ _ (by decide)).trans ((extract_append_low _ _ (by decide)).trans BitVec.extractLsb'_eq_self))
@[simp] theorem encI15_ra (opc : BitVec 6) (rt ra : RegIdx) (imm : BitVec 15) : fieldRa (encI15 opc rt ra imm) = ra :=
  (extract_append_high _ _ (by decide)).trans ((extract_append_low _ _ (by decide)).trans BitVec.extractLsb'_eq_self)
@[simp] theorem encI15_imm15 (opc : BitVec 6) (rt ra : RegIdx) (imm : BitVec 15) :
    fieldImm15 (encI15 opc rt ra imm) = imm :=
  (extract_append_low _ _ (by decide)).trans BitVec.extractLsb'_eq_self

/-! ### `encI20` -/

@[simp] theorem encI20_top (opc : BitVec 6) (rt : RegIdx) (imm : BitVec 20) :
    BitVec.extractLsb' 31 1 (encI20 opc rt imm) = 0#1 :=
  (extract_append_high _ _ (by decide)).trans ((extract_append_high _ _ (by decide)).trans ((extract_append_high _ _ (by decide)).trans BitVec.extractLsb'_eq_self))
@[simp] theorem encI20_opc (opc : BitVec 6) (rt : RegIdx) (imm : BitVec 20) :
    BitVec.extractLsb' 25 6 (encI20 opc rt imm) = opc :=
  (extract_append_high _ _ (by decide)).trans ((extract_append_high _ _ (by decide)).trans ((extract_append_low _ _ (by decide)).trans BitVec.extractLsb'_eq_self))
@[simp] theorem encI20_rt (opc : BitVec 6) (rt : RegIdx) (imm : BitVec 20) : fieldRt (encI20 opc rt imm) = rt :=
  (extract_append_high _ _ (by decide)).trans ((extract_append_low _ _ (by decide)).trans BitVec.extractLsb'_eq_self)
@[simp] theorem encI20_imm20 (opc : BitVec 6) (rt : RegIdx) (imm : BitVec 20) : fieldImm20 (encI20 opc rt imm) = imm :=
  (extract_append_low _ _ (by decide)).trans BitVec.extractLsb'_eq_self

/-! ### `encBr2` -/

@[simp] theorem encBr2_top (sub : BitVec 4) (rt : RegIdx) (imm : BitVec 16) :
    BitVec.extractLsb' 31 1 (encBr2 sub rt imm) = 0#1 :=
  (extract_append_high _ _ (by decide)).trans ((extract_append_high _ _ (by decide)).trans ((extract_append_high _ _ (by decide)).trans ((extract_append_high _ _ (by decide)).trans BitVec.extractLsb'_eq_self)))
@[simp] theorem encBr2_opc (sub : BitVec 4) (rt : RegIdx) (imm : BitVec 16) :
    BitVec.extractLsb' 25 6 (encBr2 sub rt imm) = 0b100111#6 :=
  (extract_append_high _ _ (by decide)).trans ((extract_append_high _ _ (by decide)).trans ((extract_append_high _ _ (by decide)).trans ((extract_append_low _ _ (by decide)).trans BitVec.extractLsb'_eq_self)))
@[simp] theorem encBr2_bits16_4 (sub : BitVec 4) (rt : RegIdx) (imm : BitVec 16) :
    BitVec.extractLsb' 16 4 (encBr2 sub rt imm) = sub :=
  (extract_append_high _ _ (by decide)).trans ((extract_append_low _ _ (by decide)).trans BitVec.extractLsb'_eq_self)
@[simp] theorem encBr2_rt (sub : BitVec 4) (rt : RegIdx) (imm : BitVec 16) : fieldRt (encBr2 sub rt imm) = rt :=
  (extract_append_high _ _ (by decide)).trans ((extract_append_high _ _ (by decide)).trans ((extract_append_low _ _ (by decide)).trans BitVec.extractLsb'_eq_self))
@[simp] theorem encBr2_imm16 (sub : BitVec 4) (rt : RegIdx) (imm : BitVec 16) : fieldImm16 (encBr2 sub rt imm) = imm :=
  (extract_append_low _ _ (by decide)).trans BitVec.extractLsb'_eq_self

/-! ### `encJi` -/

@[simp] theorem encJi_top (sub : BitVec 1) (imm : BitVec 24) : BitVec.extractLsb' 31 1 (encJi sub imm) = 0#1 :=
  (extract_append_high _ _ (by decide)).trans ((extract_append_high _ _ (by decide)).trans ((extract_append_high _ _ (by decide)).trans BitVec.extractLsb'_eq_self))
@[simp] theorem encJi_opc (sub : BitVec 1) (imm : BitVec 24) : BitVec.extractLsb' 25 6 (encJi sub imm) = 0b100100#6 :=
  (extract_append_high _ _ (by decide)).trans ((extract_append_high _ _ (by decide)).trans ((extract_append_low _ _ (by decide)).trans BitVec.extractLsb'_eq_self))
@[simp] theorem encJi_bits24_1 (sub : BitVec 1) (imm : BitVec 24) : BitVec.extractLsb' 24 1 (encJi sub imm) = sub :=
  (extract_append_high _ _ (by decide)).trans ((extract_append_low _ _ (by decide)).trans BitVec.extractLsb'_eq_self)
@[simp] theorem encJi_imm24 (sub : BitVec 1) (imm : BitVec 24) : fieldImm24 (encJi sub imm) = imm :=
  (extract_append_low _ _ (by decide)).trans BitVec.extractLsb'_eq_self

/-! ### `encBr1` -/

@[simp] theorem encBr1_top (sub : BitVec 1) (rt ra : RegIdx) (imm : BitVec 14) :
    BitVec.extractLsb' 31 1 (encBr1 sub rt ra imm) = 0#1 :=
  (extract_append_high _ _ (by decide)).trans ((extract_append_high _ _ (by decide)).trans ((extract_append_high _ _ (by decide)).trans ((extract_append_high _ _ (by decide)).trans ((extract_append_high _ _ (by decide)).trans BitVec.extractLsb'_eq_self))))
@[simp] theorem encBr1_opc (sub : BitVec 1) (rt ra : RegIdx) (imm : BitVec 14) :
    BitVec.extractLsb' 25 6 (encBr1 sub rt ra imm) = 0b100110#6 :=
  (extract_append_high _ _ (by decide)).trans ((extract_append_high _ _ (by decide)).trans ((extract_append_high _ _ (by decide)).trans ((extract_append_high _ _ (by decide)).trans ((extract_append_low _ _ (by decide)).trans BitVec.extractLsb'_eq_self))))
@[simp] theorem encBr1_bits14_1 (sub : BitVec 1) (rt ra : RegIdx) (imm : BitVec 14) :
    BitVec.extractLsb' 14 1 (encBr1 sub rt ra imm) = sub :=
  (extract_append_high _ _ (by decide)).trans ((extract_append_low _ _ (by decide)).trans BitVec.extractLsb'_eq_self)
@[simp] theorem encBr1_rt (sub : BitVec 1) (rt ra : RegIdx) (imm : BitVec 14) : fieldRt (encBr1 sub rt ra imm) = rt :=
  (extract_append_high _ _ (by decide)).trans ((extract_append_high _ _ (by decide)).trans ((extract_append_high _ _ (by decide)).trans ((extract_append_low _ _ (by decide)).trans BitVec.extractLsb'_eq_self)))
@[simp] theorem encBr1_ra (sub : BitVec 1) (rt ra : RegIdx) (imm : BitVec 14) : fieldRa (encBr1 sub rt ra imm) = ra :=
  (extract_append_high _ _ (by decide)).trans ((extract_append_high _ _ (by decide)).trans ((extract_append_low _ _ (by decide)).trans BitVec.extractLsb'_eq_self))
@[simp] theorem encBr1_imm14 (sub : BitVec 1) (rt ra : RegIdx) (imm : BitVec 14) :
    fieldImm14 (encBr1 sub rt ra imm) = imm :=
  (extract_append_low _ _ (by decide)).trans BitVec.extractLsb'_eq_self

/-! ### `encAlu1` -/

@[simp] theorem encAlu1_top (sub : BitVec 5) (rt ra rb : RegIdx) :
    BitVec.extractLsb' 31 1 (encAlu1 sub rt ra rb) = 0#1 :=
  (extract_append_high _ _ (by decide)).trans ((extract_append_high _ _ (by decide)).trans ((extract_append_high _ _ (by decide)).trans ((extract_append_high _ _ (by decide)).trans ((extract_append_high _ _ (by decide)).trans ((extract_append_high _ _ (by decide)).trans BitVec.extractLsb'_eq_self)))))
@[simp] theorem encAlu1_opc (sub : BitVec 5) (rt ra rb : RegIdx) :
    BitVec.extractLsb' 25 6 (encAlu1 sub rt ra rb) = 0b100000#6 :=
  (extract_append_high _ _ (by decide)).trans ((extract_append_high _ _ (by decide)).trans ((extract_append_high _ _ (by decide)).trans ((extract_append_high _ _ (by decide)).trans ((extract_append_high _ _ (by decide)).trans ((extract_append_low _ _ (by decide)).trans BitVec.extractLsb'_eq_self)))))
@[simp] theorem encAlu1_mid5 (sub : BitVec 5) (rt ra rb : RegIdx) : fieldMid5 (encAlu1 sub rt ra rb) = 0#5 :=
  (extract_append_high _ _ (by decide)).trans ((extract_append_low _ _ (by decide)).trans BitVec.extractLsb'_eq_self)
@[simp] theorem encAlu1_sub5 (sub : BitVec 5) (rt ra rb : RegIdx) : fieldSub5 (encAlu1 sub rt ra rb) = sub :=
  (extract_append_low _ _ (by decide)).trans BitVec.extractLsb'_eq_self
@[simp] theorem encAlu1_rt (sub : BitVec 5) (rt ra rb : RegIdx) : fieldRt (encAlu1 sub rt ra rb) = rt :=
  (extract_append_high _ _ (by decide)).trans ((extract_append_high _ _ (by decide)).trans ((extract_append_high _ _ (by decide)).trans ((extract_append_high _ _ (by decide)).trans ((extract_append_low _ _ (by decide)).trans BitVec.extractLsb'_eq_self))))
@[simp] theorem encAlu1_ra (sub : BitVec 5) (rt ra rb : RegIdx) : fieldRa (encAlu1 sub rt ra rb) = ra :=
  (extract_append_high _ _ (by decide)).trans ((extract_append_high _ _ (by decide)).trans ((extract_append_high _ _ (by decide)).trans ((extract_append_low _ _ (by decide)).trans BitVec.extractLsb'_eq_self)))
@[simp] theorem encAlu1_rb (sub : BitVec 5) (rt ra rb : RegIdx) : fieldRb (encAlu1 sub rt ra rb) = rb :=
  (extract_append_high _ _ (by decide)).trans ((extract_append_high _ _ (by decide)).trans ((extract_append_low _ _ (by decide)).trans BitVec.extractLsb'_eq_self))

/-! ### `encAlu2` -/

@[simp] theorem encAlu2_top (sub : BitVec 6) (rt ra rb : RegIdx) :
    BitVec.extractLsb' 31 1 (encAlu2 sub rt ra rb) = 0#1 :=
  (extract_append_high _ _ (by decide)).trans ((extract_append_high _ _ (by decide)).trans ((extract_append_high _ _ (by decide)).trans ((extract_append_high _ _ (by decide)).trans ((extract_append_high _ _ (by decide)).trans ((extract_append_high _ _ (by decide)).trans BitVec.extractLsb'_eq_self)))))
@[simp] theorem encAlu2_opc (sub : BitVec 6) (rt ra rb : RegIdx) :
    BitVec.extractLsb' 25 6 (encAlu2 sub rt ra rb) = 0b100001#6 :=
  (extract_append_high _ _ (by decide)).trans ((extract_append_high _ _ (by decide)).trans ((extract_append_high _ _ (by decide)).trans ((extract_append_high _ _ (by decide)).trans ((extract_append_high _ _ (by decide)).trans ((extract_append_low _ _ (by decide)).trans BitVec.extractLsb'_eq_self)))))
@[simp] theorem encAlu2_bits6_4 (sub : BitVec 6) (rt ra rb : RegIdx) :
    BitVec.extractLsb' 6 4 (encAlu2 sub rt ra rb) = 0#4 :=
  (extract_append_high _ _ (by decide)).trans ((extract_append_low _ _ (by decide)).trans BitVec.extractLsb'_eq_self)
@[simp] theorem encAlu2_bits0_6 (sub : BitVec 6) (rt ra rb : RegIdx) :
    BitVec.extractLsb' 0 6 (encAlu2 sub rt ra rb) = sub :=
  (extract_append_low _ _ (by decide)).trans BitVec.extractLsb'_eq_self
@[simp] theorem encAlu2_rt (sub : BitVec 6) (rt ra rb : RegIdx) : fieldRt (encAlu2 sub rt ra rb) = rt :=
  (extract_append_high _ _ (by decide)).trans ((extract_append_high _ _ (by decide)).trans ((extract_append_high _ _ (by decide)).trans ((extract_append_high _ _ (by decide)).trans ((extract_append_low _ _ (by decide)).trans BitVec.extractLsb'_eq_self))))
@[simp] theorem encAlu2_ra (sub : BitVec 6) (rt ra rb : RegIdx) : fieldRa (encAlu2 sub rt ra rb) = ra :=
  (extract_append_high _ _ (by decide)).trans ((extract_append_high _ _ (by decide)).trans ((extract_append_high _ _ (by decide)).trans ((extract_append_low _ _ (by decide)).trans BitVec.extractLsb'_eq_self)))
@[simp] theorem encAlu2_rb (sub : BitVec 6) (rt ra rb : RegIdx) : fieldRb (encAlu2 sub rt ra rb) = rb :=
  (extract_append_high _ _ (by decide)).trans ((extract_append_high _ _ (by decide)).trans ((extract_append_low _ _ (by decide)).trans BitVec.extractLsb'_eq_self))

/-! ### `encD3` -/

@[simp] theorem encD3_top (sub : BitVec 6) (d : BitVec 1) (ra rb : RegIdx) :
    BitVec.extractLsb' 31 1 (encD3 sub d ra rb) = 0#1 :=
  (extract_append_high _ _ (by decide)).trans ((extract_append_high _ _ (by decide)).trans ((extract_append_high _ _ (by decide)).trans ((extract_append_high _ _ (by decide)).trans ((extract_append_high _ _ (by decide)).trans ((extract_append_high _ _ (by decide)).trans ((extract_append_high _ _ (by decide)).trans ((extract_append_high _ _ (by decide)).trans BitVec.extractLsb'_eq_self)))))))
@[simp] theorem encD3_opc (sub : BitVec 6) (d : BitVec 1) (ra rb : RegIdx) :
    BitVec.extractLsb' 25 6 (encD3 sub d ra rb) = 0b100001#6 :=
  (extract_append_high _ _ (by decide)).trans ((extract_append_high _ _ (by decide)).trans ((extract_append_high _ _ (by decide)).trans ((extract_append_high _ _ (by decide)).trans ((extract_append_high _ _ (by decide)).trans ((extract_append_high _ _ (by decide)).trans ((extract_append_high _ _ (by decide)).trans ((extract_append_low _ _ (by decide)).trans BitVec.extractLsb'_eq_self)))))))
@[simp] theorem encD3_bits6_4 (sub : BitVec 6) (d : BitVec 1) (ra rb : RegIdx) :
    BitVec.extractLsb' 6 4 (encD3 sub d ra rb) = 0#4 :=
  (extract_append_high _ _ (by decide)).trans ((extract_append_low _ _ (by decide)).trans BitVec.extractLsb'_eq_self)
@[simp] theorem encD3_bits0_6 (sub : BitVec 6) (d : BitVec 1) (ra rb : RegIdx) :
    BitVec.extractLsb' 0 6 (encD3 sub d ra rb) = sub :=
  (extract_append_low _ _ (by decide)).trans BitVec.extractLsb'_eq_self
@[simp] theorem encD3_bits22_3 (sub : BitVec 6) (d : BitVec 1) (ra rb : RegIdx) :
    BitVec.extractLsb' 22 3 (encD3 sub d ra rb) = 0#3 :=
  (extract_append_high _ _ (by decide)).trans ((extract_append_high _ _ (by decide)).trans ((extract_append_high _ _ (by decide)).trans ((extract_append_high _ _ (by decide)).trans ((extract_append_high _ _ (by decide)).trans ((extract_append_high _ _ (by decide)).trans ((extract_append_low _ _ (by decide)).trans BitVec.extractLsb'_eq_self))))))
@[simp] theorem encD3_bits20_1 (sub : BitVec 6) (d : BitVec 1) (ra rb : RegIdx) :
    BitVec.extractLsb' 20 1 (encD3 sub d ra rb) = 0#1 :=
  (extract_append_high _ _ (by decide)).trans ((extract_append_high _ _ (by decide)).trans ((extract_append_high _ _ (by decide)).trans ((extract_append_high _ _ (by decide)).trans ((extract_append_low _ _ (by decide)).trans BitVec.extractLsb'_eq_self))))
@[simp] theorem encD3_d (sub : BitVec 6) (d : BitVec 1) (ra rb : RegIdx) : fieldD (encD3 sub d ra rb) = d :=
  (extract_append_high _ _ (by decide)).trans ((extract_append_high _ _ (by decide)).trans ((extract_append_high _ _ (by decide)).trans ((extract_append_high _ _ (by decide)).trans ((extract_append_high _ _ (by decide)).trans ((extract_append_low _ _ (by decide)).trans BitVec.extractLsb'_eq_self)))))
@[simp] theorem encD3_ra (sub : BitVec 6) (d : BitVec 1) (ra rb : RegIdx) : fieldRa (encD3 sub d ra rb) = ra :=
  (extract_append_high _ _ (by decide)).trans ((extract_append_high _ _ (by decide)).trans ((extract_append_high _ _ (by decide)).trans ((extract_append_low _ _ (by decide)).trans BitVec.extractLsb'_eq_self)))
@[simp] theorem encD3_rb (sub : BitVec 6) (d : BitVec 1) (ra rb : RegIdx) : fieldRb (encD3 sub d ra rb) = rb :=
  (extract_append_high _ _ (by decide)).trans ((extract_append_high _ _ (by decide)).trans ((extract_append_low _ _ (by decide)).trans BitVec.extractLsb'_eq_self))

/-! ### `encUsr` -/

@[simp] theorem encUsr_top (sub : BitVec 6) (rt : RegIdx) (u : UsrIdx) :
    BitVec.extractLsb' 31 1 (encUsr sub rt u) = 0#1 :=
  (extract_append_high _ _ (by decide)).trans ((extract_append_high _ _ (by decide)).trans ((extract_append_high _ _ (by decide)).trans ((extract_append_high _ _ (by decide)).trans ((extract_append_high _ _ (by decide)).trans BitVec.extractLsb'_eq_self))))
@[simp] theorem encUsr_opc (sub : BitVec 6) (rt : RegIdx) (u : UsrIdx) :
    BitVec.extractLsb' 25 6 (encUsr sub rt u) = 0b100001#6 :=
  (extract_append_high _ _ (by decide)).trans ((extract_append_high _ _ (by decide)).trans ((extract_append_high _ _ (by decide)).trans ((extract_append_high _ _ (by decide)).trans ((extract_append_low _ _ (by decide)).trans BitVec.extractLsb'_eq_self))))
@[simp] theorem encUsr_bits6_4 (sub : BitVec 6) (rt : RegIdx) (u : UsrIdx) :
    BitVec.extractLsb' 6 4 (encUsr sub rt u) = 0#4 :=
  (extract_append_high _ _ (by decide)).trans ((extract_append_low _ _ (by decide)).trans BitVec.extractLsb'_eq_self)
@[simp] theorem encUsr_bits0_6 (sub : BitVec 6) (rt : RegIdx) (u : UsrIdx) :
    BitVec.extractLsb' 0 6 (encUsr sub rt u) = sub :=
  (extract_append_low _ _ (by decide)).trans BitVec.extractLsb'_eq_self
@[simp] theorem encUsr_rt (sub : BitVec 6) (rt : RegIdx) (u : UsrIdx) : fieldRt (encUsr sub rt u) = rt :=
  (extract_append_high _ _ (by decide)).trans ((extract_append_high _ _ (by decide)).trans ((extract_append_high _ _ (by decide)).trans ((extract_append_low _ _ (by decide)).trans BitVec.extractLsb'_eq_self)))
@[simp] theorem encUsr_idx10 (sub : BitVec 6) (rt : RegIdx) (u : UsrIdx) : fieldIdx10 (encUsr sub rt u) = u :=
  (extract_append_high _ _ (by decide)).trans ((extract_append_high _ _ (by decide)).trans ((extract_append_low _ _ (by decide)).trans BitVec.extractLsb'_eq_self))

/-! ### `encMem` -/

@[simp] theorem encMem_top (sub : BitVec 8) (rt ra rb : RegIdx) (sv : BitVec 2) :
    BitVec.extractLsb' 31 1 (encMem sub rt ra rb sv) = 0#1 :=
  (extract_append_high _ _ (by decide)).trans ((extract_append_high _ _ (by decide)).trans ((extract_append_high _ _ (by decide)).trans ((extract_append_high _ _ (by decide)).trans ((extract_append_high _ _ (by decide)).trans ((extract_append_high _ _ (by decide)).trans BitVec.extractLsb'_eq_self)))))
@[simp] theorem encMem_opc (sub : BitVec 8) (rt ra rb : RegIdx) (sv : BitVec 2) :
    BitVec.extractLsb' 25 6 (encMem sub rt ra rb sv) = 0b011100#6 :=
  (extract_append_high _ _ (by decide)).trans ((extract_append_high _ _ (by decide)).trans ((extract_append_high _ _ (by decide)).trans ((extract_append_high _ _ (by decide)).trans ((extract_append_high _ _ (by decide)).trans ((extract_append_low _ _ (by decide)).trans BitVec.extractLsb'_eq_self)))))
@[simp] theorem encMem_bits0_8 (sub : BitVec 8) (rt ra rb : RegIdx) (sv : BitVec 2) :
    BitVec.extractLsb' 0 8 (encMem sub rt ra rb sv) = sub :=
  (extract_append_low _ _ (by decide)).trans BitVec.extractLsb'_eq_self
@[simp] theorem encMem_rt (sub : BitVec 8) (rt ra rb : RegIdx) (sv : BitVec 2) :
    fieldRt (encMem sub rt ra rb sv) = rt :=
  (extract_append_high _ _ (by decide)).trans ((extract_append_high _ _ (by decide)).trans ((extract_append_high _ _ (by decide)).trans ((extract_append_high _ _ (by decide)).trans ((extract_append_low _ _ (by decide)).trans BitVec.extractLsb'_eq_self))))
@[simp] theorem encMem_ra (sub : BitVec 8) (rt ra rb : RegIdx) (sv : BitVec 2) :
    fieldRa (encMem sub rt ra rb sv) = ra :=
  (extract_append_high _ _ (by decide)).trans ((extract_append_high _ _ (by decide)).trans ((extract_append_high _ _ (by decide)).trans ((extract_append_low _ _ (by decide)).trans BitVec.extractLsb'_eq_self)))
@[simp] theorem encMem_rb (sub : BitVec 8) (rt ra rb : RegIdx) (sv : BitVec 2) :
    fieldRb (encMem sub rt ra rb sv) = rb :=
  (extract_append_high _ _ (by decide)).trans ((extract_append_high _ _ (by decide)).trans ((extract_append_low _ _ (by decide)).trans BitVec.extractLsb'_eq_self))
@[simp] theorem encMem_sv (sub : BitVec 8) (rt ra rb : RegIdx) (sv : BitVec 2) :
    fieldSv (encMem sub rt ra rb sv) = sv :=
  (extract_append_high _ _ (by decide)).trans ((extract_append_low _ _ (by decide)).trans BitVec.extractLsb'_eq_self)

/-! ### `encJreg` -/

@[simp] theorem encJreg_top (low : BitVec 10) (rt rb : RegIdx) : BitVec.extractLsb' 31 1 (encJreg low rt rb) = 0#1 :=
  (extract_append_high _ _ (by decide)).trans ((extract_append_high _ _ (by decide)).trans ((extract_append_high _ _ (by decide)).trans ((extract_append_high _ _ (by decide)).trans ((extract_append_high _ _ (by decide)).trans BitVec.extractLsb'_eq_self))))
@[simp] theorem encJreg_opc (low : BitVec 10) (rt rb : RegIdx) :
    BitVec.extractLsb' 25 6 (encJreg low rt rb) = 0b100101#6 :=
  (extract_append_high _ _ (by decide)).trans ((extract_append_high _ _ (by decide)).trans ((extract_append_high _ _ (by decide)).trans ((extract_append_high _ _ (by decide)).trans ((extract_append_low _ _ (by decide)).trans BitVec.extractLsb'_eq_self))))
@[simp] theorem encJreg_ra (low : BitVec 10) (rt rb : RegIdx) : fieldRa (encJreg low rt rb) = 0#5 :=
  (extract_append_high _ _ (by decide)).trans ((extract_append_high _ _ (by decide)).trans ((extract_append_low _ _ (by decide)).trans BitVec.extractLsb'_eq_self))
@[simp] theorem encJreg_rt (low : BitVec 10) (rt rb : RegIdx) : fieldRt (encJreg low rt rb) = rt :=
  (extract_append_high _ _ (by decide)).trans ((extract_append_high _ _ (by decide)).trans ((extract_append_high _ _ (by decide)).trans ((extract_append_low _ _ (by decide)).trans BitVec.extractLsb'_eq_self)))
@[simp] theorem encJreg_rb (low : BitVec 10) (rt rb : RegIdx) : fieldRb (encJreg low rt rb) = rb :=
  (extract_append_high _ _ (by decide)).trans ((extract_append_low _ _ (by decide)).trans BitVec.extractLsb'_eq_self)
@[simp] theorem encJreg_bits0_10 (low : BitVec 10) (rt rb : RegIdx) :
    BitVec.extractLsb' 0 10 (encJreg low rt rb) = low :=
  (extract_append_low _ _ (by decide)).trans BitVec.extractLsb'_eq_self

/-! ### `encMisc` -/

@[simp] theorem encMisc_top (sub : BitVec 5) (mid : BitVec 20) : BitVec.extractLsb' 31 1 (encMisc sub mid) = 0#1 :=
  (extract_append_high _ _ (by decide)).trans ((extract_append_high _ _ (by decide)).trans ((extract_append_high _ _ (by decide)).trans BitVec.extractLsb'_eq_self))
@[simp] theorem encMisc_opc (sub : BitVec 5) (mid : BitVec 20) :
    BitVec.extractLsb' 25 6 (encMisc sub mid) = 0b110010#6 :=
  (extract_append_high _ _ (by decide)).trans ((extract_append_high _ _ (by decide)).trans ((extract_append_low _ _ (by decide)).trans BitVec.extractLsb'_eq_self))
@[simp] theorem encMisc_sub5 (sub : BitVec 5) (mid : BitVec 20) : fieldSub5 (encMisc sub mid) = sub :=
  (extract_append_low _ _ (by decide)).trans BitVec.extractLsb'_eq_self
@[simp] theorem encMisc_bits5_20 (sub : BitVec 5) (mid : BitVec 20) : BitVec.extractLsb' 5 20 (encMisc sub mid) = mid :=
  (extract_append_high _ _ (by decide)).trans ((extract_append_low _ _ (by decide)).trans BitVec.extractLsb'_eq_self)
@[simp] theorem encMisc_rt (sub : BitVec 5) (mid : BitVec 20) : fieldRt (encMisc sub mid) = mid.extractLsb' 15 5 :=
  (extract_append_high _ _ (by decide)).trans (extract_append_low _ _ (by decide))
@[simp] theorem encMisc_swid (sub : BitVec 5) (mid : BitVec 20) : fieldSwid (encMisc sub mid) = mid.extractLsb' 0 15 :=
  (extract_append_high _ _ (by decide)).trans (extract_append_low _ _ (by decide))
@[simp] theorem encMisc_mid5 (sub : BitVec 5) (mid : BitVec 20) : fieldMid5 (encMisc sub mid) = mid.extractLsb' 0 5 :=
  (extract_append_high _ _ (by decide)).trans (extract_append_low _ _ (by decide))
@[simp] theorem encMisc_idx10 (sub : BitVec 5) (mid : BitVec 20) :
    fieldIdx10 (encMisc sub mid) = mid.extractLsb' 5 10 :=
  (extract_append_high _ _ (by decide)).trans (extract_append_low _ _ (by decide))
@[simp] theorem encMisc_bits7_18 (sub : BitVec 5) (mid : BitVec 20) :
    BitVec.extractLsb' 7 18 (encMisc sub mid) = mid.extractLsb' 2 18 :=
  (extract_append_high _ _ (by decide)).trans (extract_append_low _ _ (by decide))
@[simp] theorem encMisc_bits5_2 (sub : BitVec 5) (mid : BitVec 20) :
    BitVec.extractLsb' 5 2 (encMisc sub mid) = mid.extractLsb' 0 2 :=
  (extract_append_high _ _ (by decide)).trans (extract_append_low _ _ (by decide))

end Sys2Proof
end

