-- ==== Sys2Proof/Laws/Sparse.lean ====
section
/-! SUPPORT. The laws of the maps behind memory, `SR[ ]` and `USReg[ ]`: a read after a write, and the canonical form. -/

namespace Sys2Proof.Machine

variable {w : Nat}

theorem sparseRead_erase_same (m : Sparse w) (a : Nat) : sparseRead (sparseErase m a) a = unlisted w := by
  induction m with
  | nil => rfl
  | cons e rest ih =>
    obtain ⟨b, x⟩ := e
    by_cases h : b = a
    · simpa [sparseErase, h] using ih
    · have h' : a ≠ b := fun e => h e.symm
      have : sparseErase ((b, x) :: rest) a = (b, x) :: sparseErase rest a := by simp [sparseErase, h]
      rw [this]; simpa [sparseRead, h'] using ih

theorem sparseRead_erase_other (m : Sparse w) {a c : Nat} (hc : c ≠ a) :
    sparseRead (sparseErase m a) c = sparseRead m c := by
  induction m with
  | nil => rfl
  | cons e rest ih =>
    obtain ⟨b, x⟩ := e
    by_cases h : b = a
    · have h' : c ≠ b := by rw [h]; exact hc
      have e1 : sparseErase ((b, x) :: rest) a = sparseErase rest a := by simp [sparseErase, h]
      rw [e1, ih]; simp [sparseRead, h']
    · have e1 : sparseErase ((b, x) :: rest) a = (b, x) :: sparseErase rest a := by simp [sparseErase, h]
      rw [e1]; simp [sparseRead, ih]

theorem sparseRead_insert_same (m : Sparse w) (a : Nat) (v : BitVec w) (h : sparseRead m a = unlisted w)
    (hm : ∀ e ∈ m, e.1 ≠ a) : sparseRead (sparseInsert m a v) a = v := by
  induction m with
  | nil => simp [sparseInsert, sparseRead]
  | cons e rest ih =>
    obtain ⟨b, x⟩ := e
    have hb : a ≠ b := fun e => hm (b, x) (by simp) e.symm
    by_cases hlt : a < b
    · simp [sparseInsert, hlt, sparseRead]
    · simp only [sparseInsert, hlt, if_false, sparseRead, hb]
      exact ih (by simpa [sparseRead, hb] using h) (fun e he => hm e (by simp [he]))

theorem sparseRead_insert_other (m : Sparse w) {a c : Nat} (v : BitVec w) (hc : c ≠ a) :
    sparseRead (sparseInsert m a v) c = sparseRead m c := by
  induction m with
  | nil => simp [sparseInsert, sparseRead, hc]
  | cons e rest ih =>
    obtain ⟨b, x⟩ := e
    by_cases hlt : a < b
    · simp [sparseInsert, hlt, sparseRead, hc]
    · simp [sparseInsert, hlt, sparseRead, ih]

theorem mem_sparseErase {m : Sparse w} {a : Nat} {e : Nat × BitVec w} (h : e ∈ sparseErase m a) : e ∈ m ∧ e.1 ≠ a := by
  simpa [sparseErase] using h

/-- A read at the key just written gives the value written. -/
@[simp] theorem sparseRead_write_same (m : Sparse w) (a : Nat) (v : BitVec w) : sparseRead (sparseWrite m a v) a = v := by
  unfold sparseWrite
  split
  · next h => rw [sparseRead_erase_same, h]
  · exact sparseRead_insert_same _ _ _ (sparseRead_erase_same m a) fun e he => (mem_sparseErase he).2

/-- A write leaves every other key alone. -/
theorem sparseRead_write_other (m : Sparse w) {a c : Nat} (v : BitVec w) (hc : c ≠ a) :
    sparseRead (sparseWrite m a v) c = sparseRead m c := by
  unfold sparseWrite
  split
  · exact sparseRead_erase_other m hc
  · rw [sparseRead_insert_other _ _ hc, sparseRead_erase_other m hc]

theorem sparseRead_write (m : Sparse w) (a c : Nat) (v : BitVec w) :
    sparseRead (sparseWrite m a v) c = if c = a then v else sparseRead m c := by
  by_cases h : c = a
  · simp [h]
  · simp [h, sparseRead_write_other m v h]

theorem sparseWf_nil (bound : Nat) : sparseWf bound ([] : Sparse w) := ⟨.nil, by simp⟩

theorem sparseErase_wf {bound : Nat} {m : Sparse w} (h : sparseWf bound m) (a : Nat) : sparseWf bound (sparseErase m a) :=
  ⟨h.1.filter _, fun e he => h.2 e (mem_sparseErase he).1⟩

theorem mem_sparseInsert {m : Sparse w} {a : Nat} {v : BitVec w} {e : Nat × BitVec w}
    (h : e ∈ sparseInsert m a v) : e = (a, v) ∨ e ∈ m := by
  induction m with
  | nil => simpa [sparseInsert] using h
  | cons f rest ih =>
    obtain ⟨b, x⟩ := f
    by_cases hlt : a < b
    · simpa [sparseInsert, hlt] using h
    · simp only [sparseInsert, hlt, if_false, List.mem_cons] at h
      rcases h with h | h
      · exact .inr (by simp [h])
      · rcases ih h with h | h
        · exact .inl h
        · exact .inr (by simp [h])

theorem sparseInsert_wf {bound : Nat} {m : Sparse w} {a : Nat} {v : BitVec w} (h : sparseWf bound m)
    (hm : ∀ e ∈ m, e.1 ≠ a) (ha : a < bound) (hv : v ≠ unlisted w) : sparseWf bound (sparseInsert m a v) := by
  constructor
  · induction m with
    | nil => simp [sparseInsert]
    | cons f rest ih =>
      obtain ⟨b, x⟩ := f
      obtain ⟨hp, hq⟩ := h
      rw [List.pairwise_cons] at hp
      have hb : b ≠ a := hm (b, x) (by simp)
      by_cases hlt : a < b
      · simp only [sparseInsert, hlt, if_true, List.pairwise_cons]
        refine ⟨?_, hp⟩
        intro e he
        rcases List.mem_cons.1 he with rfl | he
        · exact hlt
        · exact lt_trans hlt (hp.1 e he)
      · simp only [sparseInsert, hlt, if_false, List.pairwise_cons]
        refine ⟨?_, ih ⟨hp.2, fun e he => hq e (by simp [he])⟩ fun e he => hm e (by simp [he])⟩
        intro e he
        rcases mem_sparseInsert he with rfl | he
        · exact lt_of_le_of_ne (not_lt.1 hlt) hb
        · exact hp.1 e he
  · intro e he
    rcases mem_sparseInsert he with rfl | he
    · exact ⟨ha, hv⟩
    · exact h.2 e he

/-- A write keeps the canonical form. -/
theorem sparseWrite_wf {bound : Nat} {m : Sparse w} (h : sparseWf bound m) {a : Nat} (v : BitVec w) (ha : a < bound) :
    sparseWf bound (sparseWrite m a v) := by
  unfold sparseWrite
  split
  · exact sparseErase_wf h a
  · next hv => exact sparseInsert_wf (sparseErase_wf h a) (fun e he => (mem_sparseErase he).2) ha hv

theorem sparseRead_of_lt {m : Sparse w} {a : Nat} (h : ∀ e ∈ m, a < e.1) : sparseRead m a = unlisted w := by
  induction m with
  | nil => rfl
  | cons f rest ih =>
    obtain ⟨b, x⟩ := f
    have hb : a < b := h (b, x) (by simp)
    simp only [sparseRead, ne_of_lt hb, if_false]
    exact ih fun e he => h e (by simp [he])

/-- Two maps in canonical form that read the same everywhere are the same list. -/
theorem sparse_ext {bound : Nat} {m n : Sparse w} (hm : sparseWf bound m) (hn : sparseWf bound n)
    (h : ∀ a, sparseRead m a = sparseRead n a) : m = n := by
  induction m generalizing n with
  | nil =>
    cases n with
    | nil => rfl
    | cons f rest =>
      obtain ⟨b, x⟩ := f
      have := h b
      simp [sparseRead] at this
      exact absurd this.symm (hn.2 (b, x) (by simp)).2
  | cons e rest ih =>
    obtain ⟨a, x⟩ := e
    have hx := (hm.2 (a, x) (by simp)).2
    obtain ⟨hmp, hmq⟩ := hm
    rw [List.pairwise_cons] at hmp
    cases n with
    | nil =>
      have := h a
      simp [sparseRead] at this
      exact absurd this hx
    | cons f rest' =>
      obtain ⟨b, y⟩ := f
      have hy := (hn.2 (b, y) (by simp)).2
      obtain ⟨hnp, hnq⟩ := hn
      rw [List.pairwise_cons] at hnp
      have hab : a = b := by
        rcases lt_trichotomy a b with hlt | heq | hgt
        · exfalso
          have := h a
          rw [sparseRead_of_lt (m := (b, y) :: rest')] at this
          · simp [sparseRead] at this; exact hx this
          · intro e he
            rcases List.mem_cons.1 he with rfl | he
            · exact hlt
            · exact lt_trans hlt (hnp.1 e he)
        · exact heq
        · exfalso
          have := h b
          rw [sparseRead_of_lt (m := (a, x) :: rest)] at this
          · simp [sparseRead] at this; exact hy this.symm
          · intro e he
            rcases List.mem_cons.1 he with rfl | he
            · exact hgt
            · exact lt_trans hgt (hmp.1 e he)
      subst hab
      have hxy : x = y := by simpa [sparseRead] using h a
      subst hxy
      congr 1
      refine ih ⟨hmp.2, fun e he => hmq e (by simp [he])⟩ ⟨hnp.2, fun e he => hnq e (by simp [he])⟩ ?_
      intro c
      by_cases hc : c = a
      · subst hc
        rw [sparseRead_of_lt hmp.1, sparseRead_of_lt hnp.1]
      · have := h c
        simpa [sparseRead, hc] using this

end Sys2Proof.Machine
end

