-- ==== Sys2Proof/Laws/State.lean ====
section
/-! SUPPORT. One lemma per field per update of the state, and reads after writes of the register files. -/

namespace Sys2Proof.Machine

/-! ### `setReg` -/

@[simp] theorem State.setReg_pc (s : State) (r : RegIdx) (v : Word) : (s.setReg r v).pc = s.pc := rfl
@[simp] theorem State.setReg_d (s : State) (r : RegIdx) (v : Word) : (s.setReg r v).d = s.d := rfl
@[simp] theorem State.setReg_psw (s : State) (r : RegIdx) (v : Word) : (s.setReg r v).psw = s.psw := rfl
@[simp] theorem State.setReg_sr (s : State) (r : RegIdx) (v : Word) : (s.setReg r v).sr = s.sr := rfl
@[simp] theorem State.setReg_usr (s : State) (r : RegIdx) (v : Word) : (s.setReg r v).usr = s.usr := rfl
@[simp] theorem State.setReg_mem (s : State) (r : RegIdx) (v : Word) : (s.setReg r v).mem = s.mem := rfl
@[simp] theorem State.setReg_cache (s : State) (r : RegIdx) (v : Word) : (s.setReg r v).cache = s.cache := rfl
@[simp] theorem State.setReg_run (s : State) (r : RegIdx) (v : Word) : (s.setReg r v).run = s.run := rfl
@[simp] theorem State.setReg_pswEpoch (s : State) (r : RegIdx) (v : Word) : (s.setReg r v).pswEpoch = s.pswEpoch := rfl
@[simp] theorem State.setReg_params (s : State) (r : RegIdx) (v : Word) : (s.setReg r v).params = s.params := rfl
@[simp] theorem State.setReg_dreg (s : State) (r : RegIdx) (v : Word) (k' : Nat) : (s.setReg r v).dreg k' = s.dreg k' := rfl
@[simp] theorem State.setReg_sysReg (s : State) (r : RegIdx) (v : Word) (n' : SrIdx) : (s.setReg r v).sysReg n' = s.sysReg n' := rfl
@[simp] theorem State.setReg_usrEntry (s : State) (r : RegIdx) (v : Word) (u' : UsrIdx) : (s.setReg r v).usrEntry u' = s.usrEntry u' := rfl
@[simp] theorem State.setReg_byteAt (s : State) (r : RegIdx) (v : Word) (a : Word) : (s.setReg r v).byteAt a = s.byteAt a := rfl

/-! ### `setLp` -/

@[simp] theorem State.setLp_pc (s : State) (v : Word) : (s.setLp v).pc = s.pc := rfl
@[simp] theorem State.setLp_d (s : State) (v : Word) : (s.setLp v).d = s.d := rfl
@[simp] theorem State.setLp_psw (s : State) (v : Word) : (s.setLp v).psw = s.psw := rfl
@[simp] theorem State.setLp_sr (s : State) (v : Word) : (s.setLp v).sr = s.sr := rfl
@[simp] theorem State.setLp_usr (s : State) (v : Word) : (s.setLp v).usr = s.usr := rfl
@[simp] theorem State.setLp_mem (s : State) (v : Word) : (s.setLp v).mem = s.mem := rfl
@[simp] theorem State.setLp_cache (s : State) (v : Word) : (s.setLp v).cache = s.cache := rfl
@[simp] theorem State.setLp_run (s : State) (v : Word) : (s.setLp v).run = s.run := rfl
@[simp] theorem State.setLp_pswEpoch (s : State) (v : Word) : (s.setLp v).pswEpoch = s.pswEpoch := rfl
@[simp] theorem State.setLp_params (s : State) (v : Word) : (s.setLp v).params = s.params := rfl
@[simp] theorem State.setLp_dreg (s : State) (v : Word) (k' : Nat) : (s.setLp v).dreg k' = s.dreg k' := rfl
@[simp] theorem State.setLp_sysReg (s : State) (v : Word) (n' : SrIdx) : (s.setLp v).sysReg n' = s.sysReg n' := rfl
@[simp] theorem State.setLp_usrEntry (s : State) (v : Word) (u' : UsrIdx) : (s.setLp v).usrEntry u' = s.usrEntry u' := rfl
@[simp] theorem State.setLp_byteAt (s : State) (v : Word) (a : Word) : (s.setLp v).byteAt a = s.byteAt a := rfl

/-! ### `setDreg` -/

@[simp] theorem State.setDreg_gpr (s : State) (k : Nat) (v : DWord) : (s.setDreg k v).gpr = s.gpr := rfl
@[simp] theorem State.setDreg_pc (s : State) (k : Nat) (v : DWord) : (s.setDreg k v).pc = s.pc := rfl
@[simp] theorem State.setDreg_psw (s : State) (k : Nat) (v : DWord) : (s.setDreg k v).psw = s.psw := rfl
@[simp] theorem State.setDreg_sr (s : State) (k : Nat) (v : DWord) : (s.setDreg k v).sr = s.sr := rfl
@[simp] theorem State.setDreg_usr (s : State) (k : Nat) (v : DWord) : (s.setDreg k v).usr = s.usr := rfl
@[simp] theorem State.setDreg_mem (s : State) (k : Nat) (v : DWord) : (s.setDreg k v).mem = s.mem := rfl
@[simp] theorem State.setDreg_cache (s : State) (k : Nat) (v : DWord) : (s.setDreg k v).cache = s.cache := rfl
@[simp] theorem State.setDreg_run (s : State) (k : Nat) (v : DWord) : (s.setDreg k v).run = s.run := rfl
@[simp] theorem State.setDreg_pswEpoch (s : State) (k : Nat) (v : DWord) : (s.setDreg k v).pswEpoch = s.pswEpoch := rfl
@[simp] theorem State.setDreg_params (s : State) (k : Nat) (v : DWord) : (s.setDreg k v).params = s.params := rfl
@[simp] theorem State.setDreg_reg (s : State) (k : Nat) (v : DWord) (r' : RegIdx) : (s.setDreg k v).reg r' = s.reg r' := rfl
@[simp] theorem State.setDreg_sysReg (s : State) (k : Nat) (v : DWord) (n' : SrIdx) : (s.setDreg k v).sysReg n' = s.sysReg n' := rfl
@[simp] theorem State.setDreg_usrEntry (s : State) (k : Nat) (v : DWord) (u' : UsrIdx) : (s.setDreg k v).usrEntry u' = s.usrEntry u' := rfl
@[simp] theorem State.setDreg_byteAt (s : State) (k : Nat) (v : DWord) (a : Word) : (s.setDreg k v).byteAt a = s.byteAt a := rfl

/-! ### `setDlo` -/

@[simp] theorem State.setDlo_gpr (s : State) (k : Nat) (v : Word) : (s.setDlo k v).gpr = s.gpr := rfl
@[simp] theorem State.setDlo_pc (s : State) (k : Nat) (v : Word) : (s.setDlo k v).pc = s.pc := rfl
@[simp] theorem State.setDlo_psw (s : State) (k : Nat) (v : Word) : (s.setDlo k v).psw = s.psw := rfl
@[simp] theorem State.setDlo_sr (s : State) (k : Nat) (v : Word) : (s.setDlo k v).sr = s.sr := rfl
@[simp] theorem State.setDlo_usr (s : State) (k : Nat) (v : Word) : (s.setDlo k v).usr = s.usr := rfl
@[simp] theorem State.setDlo_mem (s : State) (k : Nat) (v : Word) : (s.setDlo k v).mem = s.mem := rfl
@[simp] theorem State.setDlo_cache (s : State) (k : Nat) (v : Word) : (s.setDlo k v).cache = s.cache := rfl
@[simp] theorem State.setDlo_run (s : State) (k : Nat) (v : Word) : (s.setDlo k v).run = s.run := rfl
@[simp] theorem State.setDlo_pswEpoch (s : State) (k : Nat) (v : Word) : (s.setDlo k v).pswEpoch = s.pswEpoch := rfl
@[simp] theorem State.setDlo_params (s : State) (k : Nat) (v : Word) : (s.setDlo k v).params = s.params := rfl
@[simp] theorem State.setDlo_reg (s : State) (k : Nat) (v : Word) (r' : RegIdx) : (s.setDlo k v).reg r' = s.reg r' := rfl
@[simp] theorem State.setDlo_sysReg (s : State) (k : Nat) (v : Word) (n' : SrIdx) : (s.setDlo k v).sysReg n' = s.sysReg n' := rfl
@[simp] theorem State.setDlo_usrEntry (s : State) (k : Nat) (v : Word) (u' : UsrIdx) : (s.setDlo k v).usrEntry u' = s.usrEntry u' := rfl
@[simp] theorem State.setDlo_byteAt (s : State) (k : Nat) (v : Word) (a : Word) : (s.setDlo k v).byteAt a = s.byteAt a := rfl

/-! ### `setDhi` -/

@[simp] theorem State.setDhi_gpr (s : State) (k : Nat) (v : Word) : (s.setDhi k v).gpr = s.gpr := rfl
@[simp] theorem State.setDhi_pc (s : State) (k : Nat) (v : Word) : (s.setDhi k v).pc = s.pc := rfl
@[simp] theorem State.setDhi_psw (s : State) (k : Nat) (v : Word) : (s.setDhi k v).psw = s.psw := rfl
@[simp] theorem State.setDhi_sr (s : State) (k : Nat) (v : Word) : (s.setDhi k v).sr = s.sr := rfl
@[simp] theorem State.setDhi_usr (s : State) (k : Nat) (v : Word) : (s.setDhi k v).usr = s.usr := rfl
@[simp] theorem State.setDhi_mem (s : State) (k : Nat) (v : Word) : (s.setDhi k v).mem = s.mem := rfl
@[simp] theorem State.setDhi_cache (s : State) (k : Nat) (v : Word) : (s.setDhi k v).cache = s.cache := rfl
@[simp] theorem State.setDhi_run (s : State) (k : Nat) (v : Word) : (s.setDhi k v).run = s.run := rfl
@[simp] theorem State.setDhi_pswEpoch (s : State) (k : Nat) (v : Word) : (s.setDhi k v).pswEpoch = s.pswEpoch := rfl
@[simp] theorem State.setDhi_params (s : State) (k : Nat) (v : Word) : (s.setDhi k v).params = s.params := rfl
@[simp] theorem State.setDhi_reg (s : State) (k : Nat) (v : Word) (r' : RegIdx) : (s.setDhi k v).reg r' = s.reg r' := rfl
@[simp] theorem State.setDhi_sysReg (s : State) (k : Nat) (v : Word) (n' : SrIdx) : (s.setDhi k v).sysReg n' = s.sysReg n' := rfl
@[simp] theorem State.setDhi_usrEntry (s : State) (k : Nat) (v : Word) (u' : UsrIdx) : (s.setDhi k v).usrEntry u' = s.usrEntry u' := rfl
@[simp] theorem State.setDhi_byteAt (s : State) (k : Nat) (v : Word) (a : Word) : (s.setDhi k v).byteAt a = s.byteAt a := rfl

/-! ### `setSysReg` -/

@[simp] theorem State.setSysReg_gpr (s : State) (n : SrIdx) (v : Word) : (s.setSysReg n v).gpr = s.gpr := rfl
@[simp] theorem State.setSysReg_pc (s : State) (n : SrIdx) (v : Word) : (s.setSysReg n v).pc = s.pc := rfl
@[simp] theorem State.setSysReg_d (s : State) (n : SrIdx) (v : Word) : (s.setSysReg n v).d = s.d := rfl
@[simp] theorem State.setSysReg_psw (s : State) (n : SrIdx) (v : Word) : (s.setSysReg n v).psw = s.psw := rfl
@[simp] theorem State.setSysReg_usr (s : State) (n : SrIdx) (v : Word) : (s.setSysReg n v).usr = s.usr := rfl
@[simp] theorem State.setSysReg_mem (s : State) (n : SrIdx) (v : Word) : (s.setSysReg n v).mem = s.mem := rfl
@[simp] theorem State.setSysReg_cache (s : State) (n : SrIdx) (v : Word) : (s.setSysReg n v).cache = s.cache := rfl
@[simp] theorem State.setSysReg_run (s : State) (n : SrIdx) (v : Word) : (s.setSysReg n v).run = s.run := rfl
@[simp] theorem State.setSysReg_pswEpoch (s : State) (n : SrIdx) (v : Word) : (s.setSysReg n v).pswEpoch = s.pswEpoch := rfl
@[simp] theorem State.setSysReg_params (s : State) (n : SrIdx) (v : Word) : (s.setSysReg n v).params = s.params := rfl
@[simp] theorem State.setSysReg_reg (s : State) (n : SrIdx) (v : Word) (r' : RegIdx) : (s.setSysReg n v).reg r' = s.reg r' := rfl
@[simp] theorem State.setSysReg_dreg (s : State) (n : SrIdx) (v : Word) (k' : Nat) : (s.setSysReg n v).dreg k' = s.dreg k' := rfl
@[simp] theorem State.setSysReg_usrEntry (s : State) (n : SrIdx) (v : Word) (u' : UsrIdx) : (s.setSysReg n v).usrEntry u' = s.usrEntry u' := rfl
@[simp] theorem State.setSysReg_byteAt (s : State) (n : SrIdx) (v : Word) (a : Word) : (s.setSysReg n v).byteAt a = s.byteAt a := rfl

/-! ### `setUsrEntry` -/

@[simp] theorem State.setUsrEntry_gpr (s : State) (u : UsrIdx) (v : Word) : (s.setUsrEntry u v).gpr = s.gpr := rfl
@[simp] theorem State.setUsrEntry_pc (s : State) (u : UsrIdx) (v : Word) : (s.setUsrEntry u v).pc = s.pc := rfl
@[simp] theorem State.setUsrEntry_d (s : State) (u : UsrIdx) (v : Word) : (s.setUsrEntry u v).d = s.d := rfl
@[simp] theorem State.setUsrEntry_psw (s : State) (u : UsrIdx) (v : Word) : (s.setUsrEntry u v).psw = s.psw := rfl
@[simp] theorem State.setUsrEntry_sr (s : State) (u : UsrIdx) (v : Word) : (s.setUsrEntry u v).sr = s.sr := rfl
@[simp] theorem State.setUsrEntry_mem (s : State) (u : UsrIdx) (v : Word) : (s.setUsrEntry u v).mem = s.mem := rfl
@[simp] theorem State.setUsrEntry_cache (s : State) (u : UsrIdx) (v : Word) : (s.setUsrEntry u v).cache = s.cache := rfl
@[simp] theorem State.setUsrEntry_run (s : State) (u : UsrIdx) (v : Word) : (s.setUsrEntry u v).run = s.run := rfl
@[simp] theorem State.setUsrEntry_pswEpoch (s : State) (u : UsrIdx) (v : Word) : (s.setUsrEntry u v).pswEpoch = s.pswEpoch := rfl
@[simp] theorem State.setUsrEntry_params (s : State) (u : UsrIdx) (v : Word) : (s.setUsrEntry u v).params = s.params := rfl
@[simp] theorem State.setUsrEntry_reg (s : State) (u : UsrIdx) (v : Word) (r' : RegIdx) : (s.setUsrEntry u v).reg r' = s.reg r' := rfl
@[simp] theorem State.setUsrEntry_dreg (s : State) (u : UsrIdx) (v : Word) (k' : Nat) : (s.setUsrEntry u v).dreg k' = s.dreg k' := rfl
@[simp] theorem State.setUsrEntry_sysReg (s : State) (u : UsrIdx) (v : Word) (n' : SrIdx) : (s.setUsrEntry u v).sysReg n' = s.sysReg n' := rfl
@[simp] theorem State.setUsrEntry_byteAt (s : State) (u : UsrIdx) (v : Word) (a : Word) : (s.setUsrEntry u v).byteAt a = s.byteAt a := rfl

/-! ### `setPc` -/

@[simp] theorem State.setPc_gpr (s : State) (t : Word) : (s.setPc t).gpr = s.gpr := rfl
@[simp] theorem State.setPc_d (s : State) (t : Word) : (s.setPc t).d = s.d := rfl
@[simp] theorem State.setPc_psw (s : State) (t : Word) : (s.setPc t).psw = s.psw := rfl
@[simp] theorem State.setPc_sr (s : State) (t : Word) : (s.setPc t).sr = s.sr := rfl
@[simp] theorem State.setPc_usr (s : State) (t : Word) : (s.setPc t).usr = s.usr := rfl
@[simp] theorem State.setPc_mem (s : State) (t : Word) : (s.setPc t).mem = s.mem := rfl
@[simp] theorem State.setPc_cache (s : State) (t : Word) : (s.setPc t).cache = s.cache := rfl
@[simp] theorem State.setPc_run (s : State) (t : Word) : (s.setPc t).run = s.run := rfl
@[simp] theorem State.setPc_pswEpoch (s : State) (t : Word) : (s.setPc t).pswEpoch = s.pswEpoch := rfl
@[simp] theorem State.setPc_params (s : State) (t : Word) : (s.setPc t).params = s.params := rfl
@[simp] theorem State.setPc_reg (s : State) (t : Word) (r' : RegIdx) : (s.setPc t).reg r' = s.reg r' := rfl
@[simp] theorem State.setPc_dreg (s : State) (t : Word) (k' : Nat) : (s.setPc t).dreg k' = s.dreg k' := rfl
@[simp] theorem State.setPc_sysReg (s : State) (t : Word) (n' : SrIdx) : (s.setPc t).sysReg n' = s.sysReg n' := rfl
@[simp] theorem State.setPc_usrEntry (s : State) (t : Word) (u' : UsrIdx) : (s.setPc t).usrEntry u' = s.usrEntry u' := rfl
@[simp] theorem State.setPc_byteAt (s : State) (t : Word) (a : Word) : (s.setPc t).byteAt a = s.byteAt a := rfl

/-! ### `advance` -/

@[simp] theorem State.advance_gpr (s : State) : (s.advance).gpr = s.gpr := rfl
@[simp] theorem State.advance_d (s : State) : (s.advance).d = s.d := rfl
@[simp] theorem State.advance_psw (s : State) : (s.advance).psw = s.psw := rfl
@[simp] theorem State.advance_sr (s : State) : (s.advance).sr = s.sr := rfl
@[simp] theorem State.advance_usr (s : State) : (s.advance).usr = s.usr := rfl
@[simp] theorem State.advance_mem (s : State) : (s.advance).mem = s.mem := rfl
@[simp] theorem State.advance_cache (s : State) : (s.advance).cache = s.cache := rfl
@[simp] theorem State.advance_run (s : State) : (s.advance).run = s.run := rfl
@[simp] theorem State.advance_pswEpoch (s : State) : (s.advance).pswEpoch = s.pswEpoch := rfl
@[simp] theorem State.advance_params (s : State) : (s.advance).params = s.params := rfl
@[simp] theorem State.advance_reg (s : State) (r' : RegIdx) : (s.advance).reg r' = s.reg r' := rfl
@[simp] theorem State.advance_dreg (s : State) (k' : Nat) : (s.advance).dreg k' = s.dreg k' := rfl
@[simp] theorem State.advance_sysReg (s : State) (n' : SrIdx) : (s.advance).sysReg n' = s.sysReg n' := rfl
@[simp] theorem State.advance_usrEntry (s : State) (u' : UsrIdx) : (s.advance).usrEntry u' = s.usrEntry u' := rfl
@[simp] theorem State.advance_byteAt (s : State) (a : Word) : (s.advance).byteAt a = s.byteAt a := rfl

/-! ### `setPsw` -/

@[simp] theorem State.setPsw_gpr (s : State) (p : Psw) : (s.setPsw p).gpr = s.gpr := rfl
@[simp] theorem State.setPsw_pc (s : State) (p : Psw) : (s.setPsw p).pc = s.pc := rfl
@[simp] theorem State.setPsw_d (s : State) (p : Psw) : (s.setPsw p).d = s.d := rfl
@[simp] theorem State.setPsw_sr (s : State) (p : Psw) : (s.setPsw p).sr = s.sr := rfl
@[simp] theorem State.setPsw_usr (s : State) (p : Psw) : (s.setPsw p).usr = s.usr := rfl
@[simp] theorem State.setPsw_mem (s : State) (p : Psw) : (s.setPsw p).mem = s.mem := rfl
@[simp] theorem State.setPsw_cache (s : State) (p : Psw) : (s.setPsw p).cache = s.cache := rfl
@[simp] theorem State.setPsw_run (s : State) (p : Psw) : (s.setPsw p).run = s.run := rfl
@[simp] theorem State.setPsw_pswEpoch (s : State) (p : Psw) : (s.setPsw p).pswEpoch = s.pswEpoch := rfl
@[simp] theorem State.setPsw_params (s : State) (p : Psw) : (s.setPsw p).params = s.params := rfl
@[simp] theorem State.setPsw_reg (s : State) (p : Psw) (r' : RegIdx) : (s.setPsw p).reg r' = s.reg r' := rfl
@[simp] theorem State.setPsw_dreg (s : State) (p : Psw) (k' : Nat) : (s.setPsw p).dreg k' = s.dreg k' := rfl
@[simp] theorem State.setPsw_sysReg (s : State) (p : Psw) (n' : SrIdx) : (s.setPsw p).sysReg n' = s.sysReg n' := rfl
@[simp] theorem State.setPsw_usrEntry (s : State) (p : Psw) (u' : UsrIdx) : (s.setPsw p).usrEntry u' = s.usrEntry u' := rfl
@[simp] theorem State.setPsw_byteAt (s : State) (p : Psw) (a : Word) : (s.setPsw p).byteAt a = s.byteAt a := rfl

/-! ### `storeBytes` -/

@[simp] theorem State.storeBytes_gpr (s : State) (p : Word) (sz : Size) (v : Word) : (s.storeBytes p sz v).gpr = s.gpr := rfl
@[simp] theorem State.storeBytes_pc (s : State) (p : Word) (sz : Size) (v : Word) : (s.storeBytes p sz v).pc = s.pc := rfl
@[simp] theorem State.storeBytes_d (s : State) (p : Word) (sz : Size) (v : Word) : (s.storeBytes p sz v).d = s.d := rfl
@[simp] theorem State.storeBytes_psw (s : State) (p : Word) (sz : Size) (v : Word) : (s.storeBytes p sz v).psw = s.psw := rfl
@[simp] theorem State.storeBytes_sr (s : State) (p : Word) (sz : Size) (v : Word) : (s.storeBytes p sz v).sr = s.sr := rfl
@[simp] theorem State.storeBytes_usr (s : State) (p : Word) (sz : Size) (v : Word) : (s.storeBytes p sz v).usr = s.usr := rfl
@[simp] theorem State.storeBytes_cache (s : State) (p : Word) (sz : Size) (v : Word) : (s.storeBytes p sz v).cache = s.cache := rfl
@[simp] theorem State.storeBytes_run (s : State) (p : Word) (sz : Size) (v : Word) : (s.storeBytes p sz v).run = s.run := rfl
@[simp] theorem State.storeBytes_pswEpoch (s : State) (p : Word) (sz : Size) (v : Word) : (s.storeBytes p sz v).pswEpoch = s.pswEpoch := rfl
@[simp] theorem State.storeBytes_params (s : State) (p : Word) (sz : Size) (v : Word) : (s.storeBytes p sz v).params = s.params := rfl
@[simp] theorem State.storeBytes_reg (s : State) (p : Word) (sz : Size) (v : Word) (r' : RegIdx) : (s.storeBytes p sz v).reg r' = s.reg r' := rfl
@[simp] theorem State.storeBytes_dreg (s : State) (p : Word) (sz : Size) (v : Word) (k' : Nat) : (s.storeBytes p sz v).dreg k' = s.dreg k' := rfl
@[simp] theorem State.storeBytes_sysReg (s : State) (p : Word) (sz : Size) (v : Word) (n' : SrIdx) : (s.storeBytes p sz v).sysReg n' = s.sysReg n' := rfl
@[simp] theorem State.storeBytes_usrEntry (s : State) (p : Word) (sz : Size) (v : Word) (u' : UsrIdx) : (s.storeBytes p sz v).usrEntry u' = s.usrEntry u' := rfl

@[simp] theorem State.setPc_pc (s : State) (t : Word) : (s.setPc t).pc = t := rfl
@[simp] theorem State.advance_pc (s : State) : s.advance.pc = s.pc + 4#32 := rfl
@[simp] theorem State.setPsw_psw (s : State) (p : Psw) : (s.setPsw p).psw = p := rfl

/-! ### Register files -/

/-- Reading a general register after a write of one (R20). -/
theorem State.reg_setReg (s : State) (r r' : RegIdx) (v : Word) :
    (s.setReg r v).reg r' = if r' = r then v else s.reg r' := by
  by_cases h : r' = r
  · subst h; simp [State.reg, State.setReg]
  · have h' : r.toNat ≠ r'.toNat := fun e => h (BitVec.eq_of_toNat_eq e.symm)
    simp [State.reg, State.setReg, h, h']

@[simp] theorem State.reg_setReg_same (s : State) (r : RegIdx) (v : Word) : (s.setReg r v).reg r = v := by
  simp [State.reg_setReg]

theorem State.reg_setReg_other (s : State) {r r' : RegIdx} (v : Word) (h : r' ≠ r) : (s.setReg r v).reg r' = s.reg r' := by
  simp [State.reg_setReg, h]

/-- Reading a general register after a write of `LP` (R22). -/
theorem State.reg_setLp (s : State) (r' : RegIdx) (v : Word) :
    (s.setLp v).reg r' = if r' = s.params.lpIndex then v else s.reg r' := State.reg_setReg s _ _ v

/-- Reading a d register after a write of one (R34). -/
theorem State.dreg_setDreg (s : State) (k k' : Nat) (v : DWord) :
    (s.setDreg k v).dreg k' = if k' = k then v else s.dreg k' := sparseRead_write ..

@[simp] theorem State.dreg_setDreg_same (s : State) (k : Nat) (v : DWord) : (s.setDreg k v).dreg k = v :=
  sparseRead_write_same ..

theorem State.dreg_setDreg_other (s : State) {k k' : Nat} (v : DWord) (h : k' ≠ k) :
    (s.setDreg k v).dreg k' = s.dreg k' := sparseRead_write_other _ v h

/-! ### Halves of a d register (R35) -/

theorem getLsbD_joinHalves (hi lo : Word) (i : Nat) :
    (joinHalves hi lo).getLsbD i = if i < 32 then lo.getLsbD i else hi.getLsbD (i - 32) :=
  BitVec.getLsbD_append (x := hi) (y := lo) (i := i)

@[simp] theorem lowHalf_joinHalves (hi lo : Word) : lowHalf (joinHalves hi lo) = lo := by
  apply BitVec.eq_of_getLsbD_eq
  intro i h
  simp only [lowHalf, BitVec.getLsbD_setWidth, getLsbD_joinHalves, h, decide_true, Bool.true_and, if_true]

@[simp] theorem highHalf_joinHalves (hi lo : Word) : highHalf (joinHalves hi lo) = hi := by
  apply BitVec.eq_of_getLsbD_eq
  intro i h
  simp [highHalf, getLsbD_joinHalves, h]

theorem joinHalves_halves (v : DWord) : joinHalves (highHalf v) (lowHalf v) = v := by
  apply BitVec.eq_of_getLsbD_eq
  intro i hi
  rw [getLsbD_joinHalves]
  by_cases h : i < 32
  · simp [lowHalf, h]
  · have h1 : i - 32 < 32 := by omega
    have h2 : 32 + (i - 32) = i := by omega
    simp [highHalf, h, h1, h2]

/-- Two 64-bit values are equal when their halves are. -/
theorem dword_ext {v w : DWord} (hh : highHalf v = highHalf w) (hl : lowHalf v = lowHalf w) : v = w := by
  rw [← joinHalves_halves v, ← joinHalves_halves w, hh, hl]

end Sys2Proof.Machine
end

