-- ==== Sys2Proof/Laws/Ops.lean ====
section
/-! SUPPORT. What each shared operation can do, said once: a completed operation's state, and how memory reads after it. -/

namespace Sys2Proof.Machine

/-! ### Byte ranges -/

theorem addresses_succ (p : Word) (n : Nat) : addresses p (n + 1) = p :: addresses (p + 1#32) n := by
  unfold addresses
  rw [List.range_succ_eq_map, List.map_cons, List.map_map]
  refine congrArg₂ List.cons (by simp) (List.map_congr_left fun k _ => ?_)
  simp only [Function.comp, Nat.succ_eq_add_one, BitVec.ofNat_add]
  rw [BitVec.add_assoc, BitVec.add_comm 1#32]

/-- Every byte of the range is admitted. -/
theorem firstBad_eq_none {ok : Nat → Bool} {a : Word} {n : Nat} :
    firstBad ok a n = none ↔ ∀ b ∈ addresses a n, ok b.toNat = true := by
  induction n generalizing a with
  | zero => simp [firstBad, addresses]
  | succ n ih =>
    rw [addresses_succ]
    simp only [firstBad, List.mem_cons, forall_eq_or_imp]
    by_cases h : ok a.toNat = true
    · simp [h, ih]
    · simp [h]

/-- The bytes of a range are the reads at its addresses. -/
theorem readBytes_eq_map (m : Memory) (a : Word) (n : Nat) :
    readBytes m a n = (addresses a n).map fun b => sparseRead m b.toNat := by
  induction n generalizing a with
  | zero => rfl
  | succ n ih => rw [addresses_succ, readBytes, ih]; rfl

/-- A store leaves every byte outside its range alone. -/
theorem sparseRead_writeBytes_other (m : Memory) (a : Word) (bs : List Byte) {c : Word}
    (h : c ∉ addresses a bs.length) : sparseRead (writeBytes m a bs) c.toNat = sparseRead m c.toNat := by
  induction bs generalizing m a with
  | nil => rfl
  | cons b bs ih =>
    rw [List.length_cons, addresses_succ, List.mem_cons, not_or] at h
    rw [writeBytes, ih _ _ h.2]
    exact sparseRead_write_other m b fun e => h.1 (BitVec.eq_of_toNat_eq e)

theorem mem_addresses {a b : Word} {n : Nat} : b ∈ addresses a n ↔ ∃ k < n, b = a + BitVec.ofNat 32 k := by
  simp [addresses, eq_comm]

theorem not_mem_addresses_succ {a : Word} {n : Nat} (hn : n < 2 ^ 32) : a ∉ addresses (a + 1#32) n := by
  rw [mem_addresses]
  rintro ⟨k, hk, e⟩
  have := congrArg BitVec.toNat e
  simp only [BitVec.toNat_add, BitVec.toNat_ofNat] at this
  have := a.isLt
  omega

/-- Reading back a range just stored gives the bytes stored. -/
theorem readBytes_writeBytes (m : Memory) (a : Word) (bs : List Byte) (h : bs.length ≤ 2 ^ 32) :
    readBytes (writeBytes m a bs) a bs.length = bs := by
  induction bs generalizing m a with
  | nil => rfl
  | cons b bs ih =>
    simp only [List.length_cons] at h
    rw [List.length_cons, readBytes, writeBytes, ih _ _ (by omega)]
    rw [sparseRead_writeBytes_other _ _ _ (not_mem_addresses_succ (by omega)), sparseRead_write_same]

/-- A store keeps the canonical form. -/
theorem writeBytes_wf {m : Memory} (h : Memory.wf m) (a : Word) (bs : List Byte) : Memory.wf (writeBytes m a bs) := by
  induction bs generalizing m a with
  | nil => exact h
  | cons b bs ih => exact ih (sparseWrite_wf h b a.isLt) _

/-- Memory has the canonical form at reset. -/
theorem reset_mem_wf : Memory.wf State.reset.mem := by decide

theorem length_splitLittle (n : Nat) (v : Word) : (splitLittle n v).length = n := by
  induction n generalizing v with
  | zero => rfl
  | succ n ih => simp [splitLittle, ih]

@[simp] theorem length_split (be : Bool) (n : Nat) (v : Word) : (split be n v).length = n := by
  unfold split; split <;> simp [length_splitLittle]

/-- Every update of memory keeps the canonical form. -/
theorem State.storeBytes_wf {s : State} (h : Memory.wf s.mem) (p : Word) (sz : Size) (v : Word) :
    Memory.wf (s.storeBytes p sz v).mem := writeBytes_wf h _ _

theorem State.setSysReg_wf {s : State} (h : sparseWf 1024 s.sr) (n : SrIdx) (v : Word) :
    sparseWf 1024 (s.setSysReg n v).sr := sparseWrite_wf h v n.isLt

theorem State.setDreg_wf {s : State} (h : sparseWf s.params.nd s.d) {k : Nat} (hk : k < s.params.nd) (v : DWord) :
    sparseWf (s.setDreg k v).params.nd (s.setDreg k v).d := sparseWrite_wf h v hk

theorem State.setUsrEntry_wf {s : State} (h : sparseWf 1024 s.usr) (u : UsrIdx) (v : Word) :
    sparseWf 1024 (s.setUsrEntry u v).usr := sparseWrite_wf h v u.isLt

theorem State.byteAt_storeBytes_other (s : State) (p : Word) (sz : Size) (v : Word) {a : Word}
    (h : a ∉ addresses p (sizeBytes sz)) : (s.storeBytes p sz v).byteAt a = s.byteAt a :=
  sparseRead_writeBytes_other _ _ _ (by simpa using h)

/-- The bytes stored, in order of address (R52). -/
theorem State.bytes_storeBytes (s : State) (p : Word) (sz : Size) (v : Word) :
    (addresses p (sizeBytes sz)).map (s.storeBytes p sz v).byteAt = split s.psw.be (sizeBytes sz) v := by
  have hl : (split s.psw.be (sizeBytes sz) v).length = sizeBytes sz := length_split _ _ _
  have hsz : sizeBytes sz ≤ 2 ^ 32 := by cases sz <;> simp [sizeBytes]
  have h := readBytes_writeBytes s.mem p (split s.psw.be (sizeBytes sz) v) (by rw [hl]; exact hsz)
  rw [hl, readBytes_eq_map] at h
  exact h

/-! ### Files of registers -/

theorem State.sysReg_setSysReg (s : State) (n n' : SrIdx) (v : Word) :
    (s.setSysReg n v).sysReg n' = if n' = n then v else s.sysReg n' := by
  simp [State.sysReg, State.setSysReg, sparseRead_write, ← BitVec.toNat_inj]

theorem State.usrEntry_setUsrEntry (s : State) (u u' : UsrIdx) (v : Word) :
    (s.setUsrEntry u v).usrEntry u' = if u' = u then v else s.usrEntry u' := by
  simp [State.usrEntry, State.setUsrEntry, sparseRead_write, ← BitVec.toNat_inj]

theorem State.dreg_setDlo (s : State) (k k' : Nat) (v : Word) :
    (s.setDlo k v).dreg k' = if k' = k then joinHalves (highHalf (s.dreg k)) v else s.dreg k' := State.dreg_setDreg ..

theorem State.dreg_setDhi (s : State) (k k' : Nat) (v : Word) :
    (s.setDhi k v).dreg k' = if k' = k then joinHalves v (lowHalf (s.dreg k)) else s.dreg k' := State.dreg_setDreg ..

/-! ### Accesses -/

/-- At the binary level a store may write data alone (R67). -/
theorem State.storable_binary {s : State} (h : s.params.program = .binary) (a : Nat) :
    s.storable a = s.params.storable a := by
  unfold State.storable; rw [h]

/-- No byte is both program text and storable (R67). -/
theorem fetchable_eq_false_of_storable {p : Params} {a : Nat} (h : p.storable a = true) : p.fetchable a = false := by
  unfold Params.storable at h
  unfold Params.fetchable
  rw [of_decide_eq_true h]; rfl

/-- At the binary level a store never reaches program text (R67). -/
theorem State.storable_eq_false_of_fetchable {s : State} (h : s.params.program = .binary) {a : Nat}
    (hf : s.params.fetchable a = true) : s.storable a = false := by
  rw [State.storable_binary h]
  cases hs : s.params.storable a with
  | false => rfl
  | true => rw [fetchable_eq_false_of_storable hs] at hf; cases hf

/-- Program text is allocated (R60). -/
theorem loadable_of_fetchable {p : Params} {a : Nat} (h : p.fetchable a = true) : p.loadable a = true := by
  unfold Params.fetchable at h
  unfold Params.loadable
  rw [of_decide_eq_true h]; rfl

/-- At the assembly level a store may write every allocated byte (R60, R67). -/
theorem State.storable_assembly {s : State} {items : List ProgramItem} (h : s.params.program = .assembly items)
    (a : Nat) : s.storable a = s.params.loadable a := by
  unfold State.storable; rw [h]

/-- A byte a store may write is allocated (R60). -/
theorem State.loadable_of_storable {s : State} {a : Nat} (h : s.storable a = true) : s.params.loadable a = true := by
  unfold State.storable at h
  split at h
  · exact h
  · unfold Params.storable at h
    unfold Params.loadable
    rw [of_decide_eq_true h]; rfl

/-- When a data access passes its checks, and where it reaches. -/
theorem State.checkData_ok {s : State} {ok : Nat → Bool} {a p : Word} {sz : Size} :
    s.checkData ok a sz = .ok p ↔ s.Reaches ok a (sizeBytes sz) p := by
  unfold State.checkData State.Reaches aligned
  by_cases ha : a.toNat % sizeBytes sz = 0
  · simp only [ha, decide_true, if_true, true_and]
    cases ht : s.translate .data a with
    | none => simp
    | some q =>
      simp only [Option.some.injEq]
      cases hf : firstBad ok q (sizeBytes sz) with
      | none =>
        have hb := firstBad_eq_none.1 hf
        simp only [Except.ok.injEq]
        exact ⟨fun h => ⟨h, h ▸ hb⟩, fun h => h.1⟩
      | some b =>
        simp only [reduceCtorEq, false_iff, not_and]
        rintro rfl h2
        rw [firstBad_eq_none.2 h2] at hf; cases hf
  · simp [ha]

/-- A read that completes (R51). -/
theorem State.memRead_ok {s : State} {a v : Word} {sz : Size} :
    s.memRead a sz = .ok v ↔
      ∃ p, s.Loads a (sizeBytes sz) p ∧ v = assemble s.psw.be (readBytes s.mem p (sizeBytes sz)) := by
  unfold State.memRead
  cases h : s.checkData s.params.loadable a sz with
  | error f =>
    constructor
    · intro h'; cases h'
    · rintro ⟨p, hp, _⟩; rw [State.checkData_ok.2 hp] at h; cases h
  | ok p =>
    have hp := State.checkData_ok.1 h
    constructor
    · intro h'; cases h'; exact ⟨p, hp, rfl⟩
    · rintro ⟨q, hq, rfl⟩
      have := hp.2.1.symm.trans hq.2.1
      cases this; rfl

/-- A write that completes (R52). -/
theorem State.memWrite_ok {s t : State} {a v : Word} {sz : Size} :
    s.memWrite a sz v = .ok t ↔ ∃ p, s.Stores a (sizeBytes sz) p ∧ t = s.storeBytes p sz v := by
  unfold State.memWrite
  cases h : s.checkData s.storable a sz with
  | error f =>
    constructor
    · intro h'; cases h'
    · rintro ⟨p, hp, _⟩; rw [State.checkData_ok.2 hp] at h; cases h
  | ok p =>
    have hp := State.checkData_ok.1 h
    constructor
    · intro h'; cases h'; exact ⟨p, hp, rfl⟩
    · rintro ⟨q, hq, rfl⟩
      have := hp.2.1.symm.trans hq.2.1
      cases this; rfl

/-- A failed check is what a read answers (R137). -/
theorem State.memRead_error {s : State} {a : Word} {sz : Size} {f : Fault}
    (h : s.checkData s.params.loadable a sz = .error f) : s.memRead a sz = .error f := by
  unfold State.memRead; rw [h]

/-- A failed check is what a write answers (R137). -/
theorem State.memWrite_error {s : State} {a : Word} {sz : Size} {f : Fault}
    (h : s.checkData s.storable a sz = .error f) (v : Word) : s.memWrite a sz v = .error f := by
  unfold State.memWrite; rw [h]

theorem State.admits_store {s : State} {i : Instr} (h : isStore i = true) : s.admits i = s.storable := by
  unfold State.admits; rw [h]; rfl

theorem State.admits_load {s : State} {i : Instr} (h : isStore i = false) : s.admits i = s.params.loadable := by
  unfold State.admits; rw [h]; rfl

/-! ### Shapes of meanings: what a completed one has done -/

theorem writeReg_next {rt : RegIdx} {v : Word} {s t : State} (h : writeReg rt v s = .next t) :
    t = (s.setReg rt v).advance := by cases h; rfl

theorem writeDreg_next {k : Nat} {v : DWord} {s t : State} (h : writeDreg k v s = .next t) :
    t = (s.setDreg k v).advance := by cases h; rfl

theorem loadAt_next {sz : Size} {sg : Bool} {rt : RegIdx} {a : Word} {s t : State}
    (h : loadAt sz sg rt a s = .next t) :
    ∃ v, s.memRead a sz = .ok v ∧ t = (s.setReg rt (extendLoaded sz sg v)).advance := by
  unfold loadAt at h
  cases hr : s.memRead a sz with
  | error f => rw [hr] at h; cases h
  | ok v => rw [hr] at h; cases h; exact ⟨v, rfl, rfl⟩

theorem loadPost_next {sz : Size} {sg : Bool} {rt ra : RegIdx} {inc : Word} {s t : State}
    (h : loadPost sz sg rt ra inc s = .next t) :
    ∃ v, s.memRead (s.reg ra) sz = .ok v ∧
      t = ((s.setReg rt (extendLoaded sz sg v)).setReg ra (s.reg ra + inc)).advance := by
  unfold loadPost at h
  cases hr : s.memRead (s.reg ra) sz with
  | error f => rw [hr] at h; cases h
  | ok v => rw [hr] at h; cases h; exact ⟨v, rfl, rfl⟩

theorem loadPostImm_next {sz : Size} {sg : Bool} {rt ra : RegIdx} {inc : Word} {s t : State}
    (h : loadPostImm sz sg rt ra inc s = .next t) : rt ≠ ra ∧ loadPost sz sg rt ra inc s = .next t := by
  unfold loadPostImm at h
  split at h
  · cases h
  · next hne => exact ⟨hne, h⟩

theorem loadPostReg_next {sz : Size} {sg : Bool} {rt ra rb : RegIdx} {inc : Word} {s t : State}
    (h : loadPostReg sz sg rt ra rb inc s = .next t) :
    rt ≠ ra ∧ rt ≠ rb ∧ loadPost sz sg rt ra inc s = .next t := by
  unfold loadPostReg at h
  split at h
  · cases h
  · next h1 =>
    split at h
    · cases h
    · next h2 => exact ⟨h1, h2, h⟩

theorem storeAt_next {sz : Size} {rt : RegIdx} {a : Word} {s t : State} (h : storeAt sz rt a s = .next t) :
    ∃ p, s.Stores a (sizeBytes sz) p ∧ t = (s.storeBytes p sz (s.reg rt)).advance := by
  unfold storeAt at h
  cases hw : s.memWrite a sz (s.reg rt) with
  | error f => rw [hw] at h; cases h
  | ok s' =>
    rw [hw] at h; cases h
    obtain ⟨p, hp, rfl⟩ := State.memWrite_ok.1 hw
    exact ⟨p, hp, rfl⟩

theorem storePost_next {sz : Size} {rt ra : RegIdx} {inc : Word} {s t : State}
    (h : storePost sz rt ra inc s = .next t) :
    ∃ p, s.Stores (s.reg ra) (sizeBytes sz) p ∧
      t = ((s.storeBytes p sz (s.reg rt)).setReg ra (s.reg ra + inc)).advance := by
  unfold storePost at h
  cases hw : s.memWrite (s.reg ra) sz (s.reg rt) with
  | error f => rw [hw] at h; cases h
  | ok s' =>
    rw [hw] at h; cases h
    obtain ⟨p, hp, rfl⟩ := State.memWrite_ok.1 hw
    exact ⟨p, hp, rfl⟩

theorem transferTo_next {a : Word} {s t : State} (h : transferTo a s = .next t) :
    a.getLsbD 0 = false ∧ t = s.setPc a := by
  unfold transferTo at h
  split at h
  · cases h
  · next hb => cases h; exact ⟨by simpa using hb, rfl⟩

theorem branchIf_next {w : Nat} {c : Bool} {imm : BitVec w} {s t : State} (h : branchIf c imm s = .next t) :
    (c = true ∧ (pcRelative imm s).getLsbD 0 = false ∧ t = s.setPc (pcRelative imm s)) ∨
    (c = false ∧ t = s.advance) := by
  unfold branchIf at h
  split at h
  · next hc => exact .inl ⟨hc, transferTo_next h⟩
  · next hc => cases h; exact .inr ⟨by simpa using hc, rfl⟩

theorem branchLinkIf_next {c : Bool} {rt : RegIdx} {imm : BitVec 16} {s t : State}
    (h : branchLinkIf c rt imm s = .next t) :
    rt ≠ s.params.lpIndex ∧
    ((c = true ∧ (pcRelative imm s).getLsbD 0 = false ∧ t = (s.setLp (s.pc + 4#32)).setPc (pcRelative imm s)) ∨
     (c = false ∧ t = (s.setLp (s.pc + 4#32)).advance)) := by
  unfold branchLinkIf at h
  split at h
  · cases h
  · next hne =>
    refine ⟨hne, ?_⟩
    split at h
    · next hc => exact .inl ⟨hc, transferTo_next h⟩
    · next hc => cases h; exact .inr ⟨by simpa using hc, rfl⟩

theorem eventData_fixed {p : Params} (h : p.trapOperands = .fixed) {w : Nat} (k : BitVec w) :
    p.eventData k = some k := by simp [Params.eventData, h]

theorem eventData_notFixed {p : Params} (h : p.trapOperands = .notFixed) {w : Nat} (k : BitVec w) :
    p.eventData k = none := by simp [Params.eventData, h]

/-- An ill-formed instruction never completes. -/
theorem notAnInstruction_ne_next (i : Instr) (s t : State) : notAnInstruction i s ≠ .next t := nofun

/-- What the check of R100 can do: the meaning's own outcome, or `NotAnInstruction`. -/
theorem ifWellFormed_eq (i : Instr) (s : State) (o : Out) :
    (i.wellFormed s.params = true ∧ ifWellFormed i s o = o) ∨
    (i.wellFormed s.params = false ∧ ifWellFormed i s o = .fault (.notAnInstruction s.pc (s.wordOf i))) := by
  unfold ifWellFormed
  cases i.wellFormed s.params
  · exact .inr ⟨rfl, rfl⟩
  · exact .inl ⟨rfl, rfl⟩

/-- A well-formed instruction has its meaning's outcome. -/
theorem ifWellFormed_true {i : Instr} {s : State} (h : i.wellFormed s.params = true) (o : Out) :
    ifWellFormed i s o = o := by unfold ifWellFormed; rw [h]; rfl

/-- An ill-formed instruction is `NotAnInstruction` with its word (R100). -/
theorem ifWellFormed_false {i : Instr} {s : State} (h : i.wellFormed s.params = false) (o : Out) :
    ifWellFormed i s o = .fault (.notAnInstruction s.pc (s.wordOf i)) := by unfold ifWellFormed; rw [h]; rfl

/-- Only a well-formed instruction completes. -/
theorem ifWellFormed_next {i : Instr} {s t : State} {o : Out} (h : ifWellFormed i s o = .next t) :
    i.wellFormed s.params = true ∧ o = .next t := by
  rcases ifWellFormed_eq i s o with ⟨hw, he⟩ | ⟨-, he⟩
  · exact ⟨hw, he ▸ h⟩
  · rw [he] at h; cases h

/-- What a selector of `USReg[ ]` names is a half of one of the `ND` d registers, or an opaque entry. -/
theorem usrTarget_half {p : Params} {u : UsrIdx} {k : Nat} {h : DHalf} (e : p.usrTarget u = some (.half k h)) :
    k < p.nd := by
  unfold Params.usrTarget at e
  split at e
  · split at e
    · next hk => cases e; exact hk
    · cases e
  · split at e <;> cases e

@[simp] theorem State.wordOf_binary {s : State} (h : s.params.program = .binary) (i : Instr) :
    s.wordOf i = i.word s.params := by unfold State.wordOf; rw [h]

@[simp] theorem State.wordOf_assembly {s : State} {items : List ProgramItem} (h : s.params.program = .assembly items)
    (i : Instr) : s.wordOf i = none := by unfold State.wordOf; rw [h]

/-- A decoded instruction has a word, the one it is encoded as. -/
theorem word_of_encodable {i : Instr} (p : Params) (h : i.encodable = true) : i.word p = some (i.encode p) := by
  unfold Instr.word; rw [h]; rfl

/-- A conditional trap completes exactly where its operands are fixed and its condition does not hold. -/
theorem trapIf_next {u : UnmodelledCase} {c : Bool} {swid : BitVec 15} {s t : State} :
    trapIf u c swid s = .next t ↔ s.params.trapOperands = .fixed ∧ c = false ∧ t = s.advance := by
  unfold trapIf
  cases s.params.trapOperands <;> cases c <;> simp [refuse, raise, eq_comm]

end Sys2Proof.Machine
end

