-- ==== Sys2Proof/Laws/Memory.lean ====
section
/-! SUPPORT. Values and bytes: what the bytes of an access assemble to, and what a stored value splits into (R51, R52). -/

namespace Sys2Proof.Machine

theorem getLsbD_append4 (a b c d : Byte) (i : Nat) : BitVec.getLsbD (w := 32) (d ++ c ++ b ++ a) i =
    if i < 8 then a.getLsbD i else if i - 8 < 8 then b.getLsbD (i - 8)
      else if i - 8 - 8 < 8 then c.getLsbD (i - 8 - 8) else d.getLsbD (i - 8 - 8 - 8) := by
  refine (BitVec.getLsbD_append ..).trans ?_
  simp only [BitVec.getLsbD_append]

theorem assembleLittle_four (a b c d : Byte) : assembleLittle [a, b, c, d] = d ++ c ++ b ++ a := by
  apply BitVec.eq_of_getLsbD_eq
  intro i hi
  rw [getLsbD_append4]
  simp only [assembleLittle, BitVec.getLsbD_or, BitVec.getLsbD_setWidth, BitVec.getLsbD_shiftLeft, hi, decide_true,
    Bool.true_and]
  by_cases h1 : i < 8
  · simp [h1]
  rw [BitVec.getLsbD_of_ge a i (by omega)]
  have g1 : i - 8 < 32 := by omega
  by_cases h2 : i - 8 < 8
  · simp [h1, h2, g1]
  rw [BitVec.getLsbD_of_ge b (i - 8) (by omega)]
  have g2 : i - 8 - 8 < 32 := by omega
  by_cases h3 : i - 8 - 8 < 8
  · simp [h1, h2, h3, g1, g2]
  rw [BitVec.getLsbD_of_ge c _ (by omega)]
  have g3 : i - 8 - 8 - 8 < 32 := by omega
  simp [h1, h2, h3, g1, g2, g3]

theorem assembleLittle_two (a b : Byte) : assembleLittle [a, b] = (b ++ a : BitVec 16).setWidth 32 := by
  apply BitVec.eq_of_getLsbD_eq
  intro i hi
  have e : BitVec.getLsbD (w := 16) (b ++ a) i = if i < 8 then a.getLsbD i else b.getLsbD (i - 8) :=
    BitVec.getLsbD_append ..
  rw [BitVec.getLsbD_setWidth, e]
  simp only [assembleLittle, BitVec.getLsbD_or, BitVec.getLsbD_setWidth, BitVec.getLsbD_shiftLeft, hi, decide_true,
    Bool.true_and]
  by_cases h1 : i < 8
  · simp [h1]
  rw [BitVec.getLsbD_of_ge a i (by omega)]
  have g1 : i - 8 < 32 := by omega
  simp [h1, g1]

theorem assembleLittle_one (a : Byte) : assembleLittle [a] = a.setWidth 32 := by simp [assembleLittle]

theorem readBytes_four (s : State) (p : Word) : readBytes s.mem p 4 =
    [s.byteAt p, s.byteAt (p + 1#32), s.byteAt (p + 2#32), s.byteAt (p + 3#32)] := by
  simp only [readBytes, State.byteAt, BitVec.add_assoc]
  rfl

/-- What a word read gives, in the terms of `State.wordAt` (R51). -/
theorem assemble_word (s : State) (p : Word) : assemble s.psw.be (readBytes s.mem p (sizeBytes .word)) = s.wordAt p := by
  change assemble s.psw.be (readBytes s.mem p 4) = _
  rw [readBytes_four]
  unfold assemble State.wordAt
  cases s.psw.be <;> simp [assembleLittle_four]

/-- What a halfword read gives (R51). -/
theorem assemble_half (s : State) (p : Word) :
    assemble s.psw.be (readBytes s.mem p (sizeBytes .half)) = (s.halfAt p).setWidth 32 := by
  change assemble s.psw.be [s.byteAt p, s.byteAt (p + 1#32)] = _
  unfold assemble State.halfAt
  cases s.psw.be <;> simp [assembleLittle_two]

/-- What a byte read gives (R51). -/
theorem assemble_byte (s : State) (p : Word) :
    assemble s.psw.be (readBytes s.mem p (sizeBytes .byte)) = (s.byteAt p).setWidth 32 := by
  change assemble s.psw.be [s.byteAt p] = _
  unfold assemble
  cases s.psw.be <;> simp [assembleLittle_one]

/-- What a fetch reads (R54). -/
theorem assemble_instruction (s : State) (p : Word) :
    assemble (s.params.ifetchBig || s.psw.be) (readBytes s.mem p 4) = s.instructionWordAt p := by
  rw [readBytes_four]
  unfold assemble State.instructionWordAt
  cases s.params.ifetchBig <;> cases s.psw.be <;> simp [assembleLittle_four]

theorem setWidth_shift (v : Word) (k n : Nat) : (v >>> k).setWidth n = v.extractLsb' k n := by
  apply BitVec.eq_of_getLsbD_eq
  intro i hi
  simp

/-- The bytes a word store writes (R52). -/
theorem split_word (be : Bool) (v : Word) : split be (sizeBytes .word) v = wordBytes be v := by
  have h0 : v.setWidth 8 = v.extractLsb' 0 8 := setWidth_shift v 0 8
  simp only [split, wordBytes, sizeBytes, splitLittle, h0, ← BitVec.shiftRight_add, setWidth_shift]
  cases be <;> simp

/-- The bytes a halfword store writes (R52). -/
theorem split_half (be : Bool) (v : Word) : split be (sizeBytes .half) v = halfBytes be v := by
  have h0 : v.setWidth 8 = v.extractLsb' 0 8 := setWidth_shift v 0 8
  simp only [split, halfBytes, sizeBytes, splitLittle, h0, setWidth_shift]
  cases be <;> simp

/-- The byte a byte store writes (R52). -/
theorem split_byte (be : Bool) (v : Word) : split be (sizeBytes .byte) v = [v.extractLsb' 0 8] := by
  have h0 : v.setWidth 8 = v.extractLsb' 0 8 := setWidth_shift v 0 8
  simp only [split, sizeBytes, splitLittle, h0]
  cases be <;> simp

end Sys2Proof.Machine
end

