-- ==== Sys2Proof/Laws/Fetch.lean ====
section
/-! SUPPORT. What a fetch needs and finds (R54, R61, R313), and what placing a word does to it. -/

namespace Sys2Proof.Machine

/-- A word is its four bytes, most significant first. -/
theorem join_bytes_of_word (w : Word) :
    w.extractLsb' 24 8 ++ w.extractLsb' 16 8 ++ w.extractLsb' 8 8 ++ w.extractLsb' 0 8 = w := by
  apply BitVec.eq_of_getLsbD_eq
  intro i hi
  rw [getLsbD_append4]
  simp only [BitVec.getLsbD_extractLsb']
  by_cases h1 : i < 8
  · simp [h1]
  by_cases h2 : i - 8 < 8
  · simp [h1, h2, show 8 + (i - 8) = i from by omega]
  by_cases h3 : i - 8 - 8 < 8
  · simp only [h1, h2, h3, if_false, if_true, decide_true, Bool.true_and]
    congr 1; omega
  · have h4 : i - 8 - 8 - 8 < 8 := by omega
    simp only [h1, h2, h3, h4, if_false, decide_true, Bool.true_and]
    congr 1; omega

/-- A fetch gives a word exactly where it translates and its four bytes are program text. -/
theorem State.fetchWord_ok {s : State} {w : Word} : s.fetchWord = .ok w ↔
    ∃ p, s.translate .fetch s.pc = some p ∧ firstBad s.params.fetchable p 4 = none ∧ w = s.instructionWordAt p := by
  unfold State.fetchWord
  cases s.translate .fetch s.pc with
  | none => simp
  | some p =>
    cases h : firstBad s.params.fetchable p 4 with
    | some b => simp [h]
    | none =>
      have e : assemble s.fetchBig (readBytes s.mem p 4) = s.instructionWordAt p := assemble_instruction s p
      simp [h, e, eq_comm]

/-- An instruction is found exactly where its word is fetched and decodes to it. -/
theorem State.fetchInstr_ok {s : State} {i : Instr} : s.fetchInstr = .ok i ↔
    ∃ w, s.fetchWord = .ok w ∧ decodeWord w = .ok i := by
  unfold State.fetchInstr
  cases s.fetchWord with
  | error f => simp
  | ok w => cases h : decodeWord w <;> simp [h]

/-- A program map gives an instruction exactly at the addresses of its domain. -/
theorem State.lookInstr_ok {s : State} {items : List ProgramItem} {i : Instr} : s.lookInstr items = .ok i ↔
    ∃ p, s.translate .fetch s.pc = some p ∧ instrAt items p = some i := by
  unfold State.lookInstr
  cases s.translate .fetch s.pc with
  | none => simp
  | some p => cases h : instrAt items p <;> simp [h]

/-- The domain of a program map is of even addresses (R310). -/
theorem instrAt_even {items : List ProgramItem} {a : Word} {i : Instr} (h : instrAt items a = some i) :
    a.toNat % 2 = 0 := by
  unfold instrAt at h
  split at h
  · assumption
  · cases h

theorem State.nextInstr_binary {s : State} (h : s.params.program = .binary) : s.nextInstr = s.fetchInstr := by
  unfold State.nextInstr; rw [h]

theorem State.nextInstr_assembly {s : State} {items : List ProgramItem} (h : s.params.program = .assembly items) :
    s.nextInstr = s.lookInstr items := by
  unfold State.nextInstr; rw [h]

/-- A step that completes ran one instruction, in a core that is running. -/
theorem step_next {s t : State} (h : step s = .next t) :
    s.run = .running ∧ ∃ i, s.nextInstr = .ok i ∧ exec i s = .next t := by
  unfold step at h
  split at h
  · cases h
  · next hr =>
    split at h
    · cases h
    · next i hi => exact ⟨hr, i, hi, h⟩

/-- `mapPc` leaves a state whose fetch translates. -/
theorem State.mapPc_translate (s : State) : ∃ p, s.mapPc.translate .fetch s.mapPc.pc = some p := by
  unfold State.mapPc
  cases h : s.translate .fetch s.pc with
  | some p => exact ⟨p, h⟩
  | none =>
    refine ⟨s.pc, ?_⟩
    simp only [State.translate, Params.translateAt]
    split
    · have e : ∀ l : List TransPoint,
          (l.filter fun t => !(decide (t.kind = .fetch) && decide (t.vaddr = s.pc))).find?
            (fun t => decide (t.kind = .fetch) && decide (t.vaddr = s.pc)) = none := by
        intro l
        rw [List.find?_eq_none]
        intro t ht
        have := (List.mem_filter.mp ht).2
        simpa [imp_iff_not_or] using this
      rw [e]
    · rfl

/-- `allowFetch` changes no translation. -/
theorem State.allowFetch_translate (s : State) (k : AccessKind) (a : Word) :
    s.allowFetch.translate k a = s.translate k a := by
  unfold State.allowFetch
  cases firstBad s.params.fetchable s.fetchAddress 4 <;> rfl

theorem State.allowFetch_pc (s : State) : s.allowFetch.pc = s.pc := by
  unfold State.allowFetch
  cases firstBad s.params.fetchable s.fetchAddress 4 <;> rfl

theorem fetchable_textAt (p : Params) (q b : Word) (h : b ∈ addresses q 4) :
    ({ p with regions := textAt q ++ p.regions } : Params).fetchable b.toNat = true := by
  obtain ⟨k, hk, rfl⟩ := mem_addresses.mp h
  have e : ((textAt q ++ p.regions).find? fun r =>
      decide (r.first ≤ (q + BitVec.ofNat 32 k).toNat) && decide ((q + BitVec.ofNat 32 k).toNat ≤ r.last)).map
        Region.kind = some .text := by
    rw [List.find?_append]
    cases hf : (textAt q).find? fun r =>
        decide (r.first ≤ (q + BitVec.ofNat 32 k).toNat) && decide ((q + BitVec.ofNat 32 k).toNat ≤ r.last) with
    | none =>
      rw [List.find?_eq_none] at hf
      have := hf ⟨(q + BitVec.ofNat 32 k).toNat, (q + BitVec.ofNat 32 k).toNat, .text⟩ (by
        unfold textAt
        rw [List.mem_map]
        refine ⟨BitVec.ofNat 32 k, ?_, rfl⟩
        have : k = 0 ∨ k = 1 ∨ k = 2 ∨ k = 3 := by omega
        rcases this with rfl | rfl | rfl | rfl <;> simp)
      simp at this
    | some r =>
      have hm := List.mem_of_find?_eq_some hf
      unfold textAt at hm
      obtain ⟨c, -, rfl⟩ := List.mem_map.mp hm
      simp
  unfold Params.fetchable Params.regionAt
  rw [e]
  rfl

/-- `allowFetch` leaves four bytes that the next fetch may read. -/
theorem State.allowFetch_fetchable (s : State) : firstBad s.allowFetch.params.fetchable s.fetchAddress 4 = none := by
  unfold State.allowFetch
  cases h : firstBad s.params.fetchable s.fetchAddress 4 with
  | none => exact h
  | some b => exact firstBad_eq_none.mpr fun b hb => fetchable_textAt s.params _ b hb

end Sys2Proof.Machine
end

