-- ==== Sys2Proof/Laws/Frames.lean ====
section
/-! SUPPORT. The frames of the shared operations, in the terms of Sys2Proof/Safety.lean. -/

namespace Sys2Proof.Machine

@[simp] theorem SameFiles.refl (s : State) : SameFiles s s := ⟨rfl, rfl, rfl, rfl, rfl⟩
@[simp] theorem SamePsw.refl (s : State) : SamePsw s s := ⟨rfl, rfl⟩
@[simp] theorem SameRegs.refl (s : State) (l : List RegIdx) : SameRegs s s l := fun _ _ => rfl
@[simp] theorem SameD.refl (s : State) (l : List Nat) : SameD s s l := fun _ _ => rfl
@[simp] theorem SameBytes.refl (s : State) : SameBytes s s := fun _ => rfl
@[simp] theorem SameOutsideRegs.refl (s : State) : SameOutsideRegs s s :=
  ⟨SameD.refl s [], SameBytes.refl s, SameFiles.refl s, SamePsw.refl s⟩

/-- A register result: completes, with the frame of a register instruction. -/
theorem writeReg_frame {rt : RegIdx} {v : Word} {s : State} {P : Word → Prop} (h : P v) :
    WritesReg (writeReg rt v s) s rt P :=
  ⟨_, rfl, by simpa using h, rfl, fun r hr => State.reg_setReg_other s v (by simpa using hr), fun _ _ => rfl,
    fun _ => rfl, ⟨rfl, rfl, rfl, rfl, rfl⟩, ⟨rfl, rfl⟩⟩

/-- A d register result: completes, with its frame. -/
theorem writeDreg_frame {k : Nat} {v : DWord} {s : State} {P : DWord → Prop} (h : P v) :
    WritesD (writeDreg k v s) s k P :=
  ⟨_, rfl, by simpa using h, rfl, fun _ _ => rfl, fun k' hk => State.dreg_setDreg_other s v (by simpa using hk),
    fun _ => rfl, ⟨rfl, rfl, rfl, rfl, rfl⟩, ⟨rfl, rfl⟩⟩

/-- A low-half result: completes, with the high half kept (R236). -/
theorem writeDlo_frame {k : Nat} {v : Word} {s : State} {P : DWord → Prop}
    (h : P (joinHalves (highHalf (s.dreg k)) v)) : WritesD (writeDlo k v s) s k P :=
  writeDreg_frame h

/-- A transfer to an even address completes. -/
theorem transferTo_eq {a : Word} {s : State} (h : a.getLsbD 0 = false) : transferTo a s = .next (s.setPc a) := by
  unfold transferTo; rw [h]; rfl

/-- A transfer to an odd address raises (R177). -/
theorem transferTo_odd {a : Word} {s : State} (h : a.getLsbD 0 = true) :
    transferTo a s = .fault (.instructionMisaligned a) := by
  unfold transferTo; rw [h]; rfl

/-- A transfer to an even address, with nothing else written. -/
theorem transferTo_frame {a : Word} {s : State} (h : a.getLsbD 0 = false) :
    GoesTo (transferTo a s) s a [] (fun _ => True) :=
  ⟨s.setPc a, transferTo_eq h, rfl, trivial, fun _ _ => rfl, fun _ _ => rfl, fun _ => rfl,
    ⟨rfl, rfl, rfl, rfl, rfl⟩, ⟨rfl, rfl⟩⟩

/-- A transfer to an even address that links. -/
theorem transferTo_link_frame {a v : Word} {s : State} {r : RegIdx} (h : a.getLsbD 0 = false) :
    GoesTo (transferTo a (s.setReg r v)) s a [r] (fun t => t.reg r = v) :=
  ⟨(s.setReg r v).setPc a, transferTo_eq h, rfl, by simp, fun r' hr =>
    State.reg_setReg_other s v (by simpa using hr), fun _ _ => rfl, fun _ => rfl,
    ⟨rfl, rfl, rfl, rfl, rfl⟩, ⟨rfl, rfl⟩⟩

/-- An instruction that only advances. -/
theorem advance_frame (s : State) : GoesTo (.next s.advance) s (s.pc + 4#32) [] (fun _ => True) :=
  ⟨s.advance, rfl, rfl, trivial, fun _ _ => rfl, fun _ _ => rfl, fun _ => rfl, ⟨rfl, rfl, rfl, rfl, rfl⟩, ⟨rfl, rfl⟩⟩

/-- Bit 0 of an address is its remainder by 2. -/
theorem getLsbD_zero_eq {a : Word} : a.getLsbD 0 = decide (a.toNat % 2 = 1) := by
  simp [BitVec.getLsbD, Nat.testBit_zero]

end Sys2Proof.Machine
end

