-- ==== Sys2Proof/Laws/PerInstr.lean ====
section
/-! SUPPORT. The families of statements about every instruction, one lemma per constructor. -/

namespace Sys2Proof.Laws.LeadingBitClear

/-- Bit 31 of the instruction's word is 0: it is no 16-bit instruction (R90). -/
def Statement (i : Instr) : Prop := ∀ p : Params, (i.encode p).extractLsb' 31 1 = 0#1

theorem mfsr (rt : RegIdx) (sridx : SrIdx) : Statement (.mfsr rt sridx) := fun _ => encMisc_top ..
theorem mtsr (rt : RegIdx) (sridx : SrIdx) : Statement (.mtsr rt sridx) := fun _ => encMisc_top ..
theorem lwi (rt ra : RegIdx) (imm : BitVec 15) : Statement (.lwi rt ra imm) := fun _ => encI15_top ..
theorem lhi (rt ra : RegIdx) (imm : BitVec 15) : Statement (.lhi rt ra imm) := fun _ => encI15_top ..
theorem lhsi (rt ra : RegIdx) (imm : BitVec 15) : Statement (.lhsi rt ra imm) := fun _ => encI15_top ..
theorem lbi (rt ra : RegIdx) (imm : BitVec 15) : Statement (.lbi rt ra imm) := fun _ => encI15_top ..
theorem lbsi (rt ra : RegIdx) (imm : BitVec 15) : Statement (.lbsi rt ra imm) := fun _ => encI15_top ..
theorem swi (rt ra : RegIdx) (imm : BitVec 15) : Statement (.swi rt ra imm) := fun _ => encI15_top ..
theorem shi (rt ra : RegIdx) (imm : BitVec 15) : Statement (.shi rt ra imm) := fun _ => encI15_top ..
theorem sbi (rt ra : RegIdx) (imm : BitVec 15) : Statement (.sbi rt ra imm) := fun _ => encI15_top ..
theorem lwiBi (rt ra : RegIdx) (imm : BitVec 15) : Statement (.lwiBi rt ra imm) := fun _ => encI15_top ..
theorem lhiBi (rt ra : RegIdx) (imm : BitVec 15) : Statement (.lhiBi rt ra imm) := fun _ => encI15_top ..
theorem lhsiBi (rt ra : RegIdx) (imm : BitVec 15) : Statement (.lhsiBi rt ra imm) := fun _ => encI15_top ..
theorem lbiBi (rt ra : RegIdx) (imm : BitVec 15) : Statement (.lbiBi rt ra imm) := fun _ => encI15_top ..
theorem lbsiBi (rt ra : RegIdx) (imm : BitVec 15) : Statement (.lbsiBi rt ra imm) := fun _ => encI15_top ..
theorem swiBi (rt ra : RegIdx) (imm : BitVec 15) : Statement (.swiBi rt ra imm) := fun _ => encI15_top ..
theorem shiBi (rt ra : RegIdx) (imm : BitVec 15) : Statement (.shiBi rt ra imm) := fun _ => encI15_top ..
theorem sbiBi (rt ra : RegIdx) (imm : BitVec 15) : Statement (.sbiBi rt ra imm) := fun _ => encI15_top ..
theorem lw (rt ra rb : RegIdx) (sv : Nat) : Statement (.lw rt ra rb sv) := fun _ => encMem_top ..
theorem lh (rt ra rb : RegIdx) (sv : Nat) : Statement (.lh rt ra rb sv) := fun _ => encMem_top ..
theorem lhs (rt ra rb : RegIdx) (sv : Nat) : Statement (.lhs rt ra rb sv) := fun _ => encMem_top ..
theorem lb (rt ra rb : RegIdx) (sv : Nat) : Statement (.lb rt ra rb sv) := fun _ => encMem_top ..
theorem lbs (rt ra rb : RegIdx) (sv : Nat) : Statement (.lbs rt ra rb sv) := fun _ => encMem_top ..
theorem sw (rt ra rb : RegIdx) (sv : Nat) : Statement (.sw rt ra rb sv) := fun _ => encMem_top ..
theorem sh (rt ra rb : RegIdx) (sv : Nat) : Statement (.sh rt ra rb sv) := fun _ => encMem_top ..
theorem sb (rt ra rb : RegIdx) (sv : Nat) : Statement (.sb rt ra rb sv) := fun _ => encMem_top ..
theorem lwBi (rt ra rb : RegIdx) (sv : Nat) : Statement (.lwBi rt ra rb sv) := fun _ => encMem_top ..
theorem lhBi (rt ra rb : RegIdx) (sv : Nat) : Statement (.lhBi rt ra rb sv) := fun _ => encMem_top ..
theorem lhsBi (rt ra rb : RegIdx) (sv : Nat) : Statement (.lhsBi rt ra rb sv) := fun _ => encMem_top ..
theorem lbBi (rt ra rb : RegIdx) (sv : Nat) : Statement (.lbBi rt ra rb sv) := fun _ => encMem_top ..
theorem lbsBi (rt ra rb : RegIdx) (sv : Nat) : Statement (.lbsBi rt ra rb sv) := fun _ => encMem_top ..
theorem swBi (rt ra rb : RegIdx) (sv : Nat) : Statement (.swBi rt ra rb sv) := fun _ => encMem_top ..
theorem shBi (rt ra rb : RegIdx) (sv : Nat) : Statement (.shBi rt ra rb sv) := fun _ => encMem_top ..
theorem sbBi (rt ra rb : RegIdx) (sv : Nat) : Statement (.sbBi rt ra rb sv) := fun _ => encMem_top ..
theorem j (imm : BitVec 24) : Statement (.j imm) := fun _ => encJi_top ..
theorem jal (imm : BitVec 24) : Statement (.jal imm) := fun _ => encJi_top ..
theorem jr (rb : RegIdx) : Statement (.jr rb) := fun _ => encJreg_top ..
theorem ret (rb : RegIdx) : Statement (.ret rb) := fun _ => encJreg_top ..
theorem jral (rt rb : RegIdx) : Statement (.jral rt rb) := fun _ => encJreg_top ..
theorem jralLp (rb : RegIdx) : Statement (.jralLp rb) := fun _ => encJreg_top ..
theorem beq (rt ra : RegIdx) (imm : BitVec 14) : Statement (.beq rt ra imm) := fun _ => encBr1_top ..
theorem bne (rt ra : RegIdx) (imm : BitVec 14) : Statement (.bne rt ra imm) := fun _ => encBr1_top ..
theorem beqz (rt : RegIdx) (imm : BitVec 16) : Statement (.beqz rt imm) := fun _ => encBr2_top ..
theorem bnez (rt : RegIdx) (imm : BitVec 16) : Statement (.bnez rt imm) := fun _ => encBr2_top ..
theorem bgez (rt : RegIdx) (imm : BitVec 16) : Statement (.bgez rt imm) := fun _ => encBr2_top ..
theorem bltz (rt : RegIdx) (imm : BitVec 16) : Statement (.bltz rt imm) := fun _ => encBr2_top ..
theorem bgtz (rt : RegIdx) (imm : BitVec 16) : Statement (.bgtz rt imm) := fun _ => encBr2_top ..
theorem blez (rt : RegIdx) (imm : BitVec 16) : Statement (.blez rt imm) := fun _ => encBr2_top ..
theorem bgezal (rt : RegIdx) (imm : BitVec 16) : Statement (.bgezal rt imm) := fun _ => encBr2_top ..
theorem bltzal (rt : RegIdx) (imm : BitVec 16) : Statement (.bltzal rt imm) := fun _ => encBr2_top ..
theorem addi (rt ra : RegIdx) (imm : BitVec 15) : Statement (.addi rt ra imm) := fun _ => encI15_top ..
theorem subri (rt ra : RegIdx) (imm : BitVec 15) : Statement (.subri rt ra imm) := fun _ => encI15_top ..
theorem andi (rt ra : RegIdx) (imm : BitVec 15) : Statement (.andi rt ra imm) := fun _ => encI15_top ..
theorem ori (rt ra : RegIdx) (imm : BitVec 15) : Statement (.ori rt ra imm) := fun _ => encI15_top ..
theorem xori (rt ra : RegIdx) (imm : BitVec 15) : Statement (.xori rt ra imm) := fun _ => encI15_top ..
theorem slti (rt ra : RegIdx) (imm : BitVec 15) : Statement (.slti rt ra imm) := fun _ => encI15_top ..
theorem sltsi (rt ra : RegIdx) (imm : BitVec 15) : Statement (.sltsi rt ra imm) := fun _ => encI15_top ..
theorem movi (rt : RegIdx) (imm : BitVec 20) : Statement (.movi rt imm) := fun _ => encI20_top ..
theorem sethi (rt : RegIdx) (imm : BitVec 20) : Statement (.sethi rt imm) := fun _ => encI20_top ..
theorem add (rt ra rb : RegIdx) : Statement (.add rt ra rb) := fun _ => encAlu1_top ..
theorem sub (rt ra rb : RegIdx) : Statement (.sub rt ra rb) := fun _ => encAlu1_top ..
theorem and (rt ra rb : RegIdx) : Statement (.and rt ra rb) := fun _ => encAlu1_top ..
theorem nor (rt ra rb : RegIdx) : Statement (.nor rt ra rb) := fun _ => encAlu1_top ..
theorem or (rt ra rb : RegIdx) : Statement (.or rt ra rb) := fun _ => encAlu1_top ..
theorem xor (rt ra rb : RegIdx) : Statement (.xor rt ra rb) := fun _ => encAlu1_top ..
theorem slt (rt ra rb : RegIdx) : Statement (.slt rt ra rb) := fun _ => encAlu1_top ..
theorem slts (rt ra rb : RegIdx) : Statement (.slts rt ra rb) := fun _ => encAlu1_top ..
theorem sva (rt ra rb : RegIdx) : Statement (.sva rt ra rb) := fun _ => encAlu1_top ..
theorem svs (rt ra rb : RegIdx) : Statement (.svs rt ra rb) := fun _ => encAlu1_top ..
theorem seb (rt ra : RegIdx) : Statement (.seb rt ra) := fun _ => encAlu1_top ..
theorem seh (rt ra : RegIdx) : Statement (.seh rt ra) := fun _ => encAlu1_top ..
theorem zeb (rt ra : RegIdx) : Statement (.zeb rt ra) := fun _ => encI15_top ..
theorem zeh (rt ra : RegIdx) : Statement (.zeh rt ra) := fun _ => encAlu1_top ..
theorem wsbh (rt ra : RegIdx) : Statement (.wsbh rt ra) := fun _ => encAlu1_top ..
theorem slli (rt ra : RegIdx) (imm : BitVec 5) : Statement (.slli rt ra imm) := fun _ => encAlu1_top ..
theorem srli (rt ra : RegIdx) (imm : BitVec 5) : Statement (.srli rt ra imm) := fun _ => encAlu1_top ..
theorem srai (rt ra : RegIdx) (imm : BitVec 5) : Statement (.srai rt ra imm) := fun _ => encAlu1_top ..
theorem rotri (rt ra : RegIdx) (imm : BitVec 5) : Statement (.rotri rt ra imm) := fun _ => encAlu1_top ..
theorem sll (rt ra rb : RegIdx) : Statement (.sll rt ra rb) := fun _ => encAlu1_top ..
theorem srl (rt ra rb : RegIdx) : Statement (.srl rt ra rb) := fun _ => encAlu1_top ..
theorem sra (rt ra rb : RegIdx) : Statement (.sra rt ra rb) := fun _ => encAlu1_top ..
theorem rotr (rt ra rb : RegIdx) : Statement (.rotr rt ra rb) := fun _ => encAlu1_top ..
theorem mul (rt ra rb : RegIdx) : Statement (.mul rt ra rb) := fun _ => encAlu2_top ..
theorem mults64 (d : Nat) (ra rb : RegIdx) : Statement (.mults64 d ra rb) := fun _ => encD3_top ..
theorem mult64 (d : Nat) (ra rb : RegIdx) : Statement (.mult64 d ra rb) := fun _ => encD3_top ..
theorem madds64 (d : Nat) (ra rb : RegIdx) : Statement (.madds64 d ra rb) := fun _ => encD3_top ..
theorem madd64 (d : Nat) (ra rb : RegIdx) : Statement (.madd64 d ra rb) := fun _ => encD3_top ..
theorem msubs64 (d : Nat) (ra rb : RegIdx) : Statement (.msubs64 d ra rb) := fun _ => encD3_top ..
theorem msub64 (d : Nat) (ra rb : RegIdx) : Statement (.msub64 d ra rb) := fun _ => encD3_top ..
theorem mult32 (d : Nat) (ra rb : RegIdx) : Statement (.mult32 d ra rb) := fun _ => encD3_top ..
theorem madd32 (d : Nat) (ra rb : RegIdx) : Statement (.madd32 d ra rb) := fun _ => encD3_top ..
theorem msub32 (d : Nat) (ra rb : RegIdx) : Statement (.msub32 d ra rb) := fun _ => encD3_top ..
theorem mfusr (rt : RegIdx) (usr : UsrIdx) : Statement (.mfusr rt usr) := fun _ => encUsr_top ..
theorem mtusr (rt : RegIdx) (usr : UsrIdx) : Statement (.mtusr rt usr) := fun _ => encUsr_top ..
theorem div (d : Nat) (ra rb : RegIdx) : Statement (.div d ra rb) := fun _ => encD3_top ..
theorem divs (d : Nat) (ra rb : RegIdx) : Statement (.divs d ra rb) := fun _ => encD3_top ..
theorem cmovz (rt ra rb : RegIdx) : Statement (.cmovz rt ra rb) := fun _ => encAlu1_top ..
theorem cmovn (rt ra rb : RegIdx) : Statement (.cmovn rt ra rb) := fun _ => encAlu1_top ..
theorem dsb : Statement (.dsb) := fun _ => encMisc_top ..
theorem isb : Statement (.isb) := fun _ => encMisc_top ..
theorem brk (swid : BitVec 15) : Statement (.brk swid) := fun _ => encMisc_top ..
theorem syscall (swid : BitVec 15) : Statement (.syscall swid) := fun _ => encMisc_top ..
theorem trap (swid : BitVec 15) : Statement (.trap swid) := fun _ => encMisc_top ..
theorem teqz (rc : RegIdx) (swid : BitVec 15) : Statement (.teqz rc swid) := fun _ => encMisc_top ..
theorem tnez (rc : RegIdx) (swid : BitVec 15) : Statement (.tnez rc swid) := fun _ => encMisc_top ..
theorem iret : Statement (.iret) := fun _ => encMisc_top ..
theorem retItoff (rb : RegIdx) : Statement (.retItoff rb) := fun _ => encJreg_top ..
theorem retToff (rb : RegIdx) : Statement (.retToff rb) := fun _ => encJreg_top ..
theorem cctl (operands : BitVec 20) : Statement (.cctl operands) := fun _ => encMisc_top ..
theorem setendB : Statement (.setendB) := fun _ => (by decide : BitVec.extractLsb' 31 1 0x64120023#32 = 0#1)
theorem setendL : Statement (.setendL) := fun _ => (by decide : BitVec.extractLsb' 31 1 0x64020023#32 = 0#1)
theorem setgieE : Statement (.setgieE) := fun _ => (by decide : BitVec.extractLsb' 31 1 0x64120043#32 = 0#1)
theorem setgieD : Statement (.setgieD) := fun _ => (by decide : BitVec.extractLsb' 31 1 0x64020043#32 = 0#1)
theorem standby (wake : BitVec 2) : Statement (.standby wake) := fun _ => encMisc_top ..

end Sys2Proof.Laws.LeadingBitClear
end

