-- ==== Sys2Proof/Tests/Slice0.lean ====
section
/-! SUPPORT. Tests. The words and the results are the vectors of spec/95_test_vectors.md, or written out by hand from
the formats of spec/30_encoding.md where a comment says so. -/

namespace Sys2Proof.Machine

/-- The state with bytes stored from `a` on. -/
def State.putBytes (s : State) (a : Word) (bs : List Byte) : State := { s with mem := writeBytes s.mem a bs }

/-- The state with the eight bytes of the vectors at 0x2000. -/
def State.withSample (s : State) : State := s.putBytes 0x2000 [0x78, 0x56, 0x34, 0x12, 0x80, 0xFF, 0x7F, 0x01]

/-- The state with `PSW.BE` = 1 and the other fields 0. -/
def State.withBe (s : State) : State := s.setPsw ⟨true, false, false, false⟩

/-- The state with `DIVS_ROUND` = trunc. -/
def State.withTrunc (s : State) : State := { s with params := { s.params with divsRound := .trunc } }

/-- The state with the sets of the vectors: `SRIDX_SET` = {5, 6}, `SR_PLAIN` = {5}, and `USReg[9]` an opaque entry. -/
def State.withSets (s : State) : State :=
  { s with params := { s.params with sridxSet := [⟨5, 6⟩], srPlain := [⟨5, 5⟩], usrPlain := [⟨9, 9⟩] } }

/-- The state with `TRAP_OPERANDS` fixed as in R253. -/
def State.withTrapOperands (s : State) : State := { s with params := { s.params with trapOperands := .fixed } }

/-- The state with other `ND` and `SV_BITS`. -/
def State.withSizes (s : State) (nd svBits : Nat) : State :=
  { s with params := { s.params with nd := nd, svBits := svBits } }

/-- The state with no PSW layout supplied. -/
def State.withoutPswBits (s : State) : State := { s with params := { s.params with pswBits := none } }

/-- The state with another launch map. -/
def State.withRegions (s : State) (rs : List Region) : State := { s with params := { s.params with regions := rs } }

/-- The state with another `TRANSLATE`. -/
def State.withTranslation (s : State) (ts : List TransPoint) : State :=
  { s with params := { s.params with translation := ts } }

/-- The state with a program at the assembly level. -/
def State.withItems (s : State) (items : List ProgramItem) : State :=
  { s with params := { s.params with program := .assembly items } }

end Sys2Proof.Machine

namespace Sys2Proof.Tests

open Sys2Proof.Machine

/-- The state after reset with the registers listed written. -/
def start (regs : List (RegIdx × Word)) : State := regs.foldl (fun s p => s.setReg p.1 p.2) State.reset

def hasReg (r : RegIdx) (v : Word) (t : State) : Bool := decide (t.reg r = v)

def hasD (k : Nat) (v : DWord) (t : State) : Bool := decide (t.dreg k = v)

def hasSr (k : SrIdx) (v : Word) (t : State) : Bool := decide (t.sysReg k = v)

def hasUsr (k : UsrIdx) (v : Word) (t : State) : Bool := decide (t.usrEntry k = v)

def hasBytes (a : Word) (bs : List Byte) (t : State) : Bool := decide (readBytes t.mem a bs.length = bs)

def hasPsw (p : Psw) (t : State) : Bool := decide (t.psw = p)

/-- The instruction completes at `pc`, and the checks hold of the next state. -/
def goes (i : Instr) (s : State) (pc : Word) (checks : List (State → Bool)) : Bool :=
  match exec i s with
  | .next t => decide (t.pc = pc) && checks.all (· t)
  | _ => false

/-- The instruction completes at 0x1004, the address after that of `start`. -/
def runs (i : Instr) (s : State) (checks : List (State → Bool)) : Bool := goes i s 0x1004 checks

def faults (i : Instr) (s : State) (f : Fault) : Bool :=
  match exec i s with
  | .fault g => decide (g = f)
  | _ => false

def refuses (i : Instr) (s : State) (r : Refusal) : Bool :=
  match exec i s with
  | .refused q => decide (q = r)
  | _ => false

/-- The step completes at `pc`, and the checks hold of the next state. -/
def stepGoes (s : State) (pc : Word) (checks : List (State → Bool)) : Bool :=
  match step s with
  | .next t => decide (t.pc = pc) && checks.all (· t)
  | _ => false

def stepFaults (s : State) (f : Fault) : Bool :=
  match step s with
  | .fault g => decide (g = f)
  | _ => false

/-- Each word decodes to the instruction beside it, which encodes to the word. -/
def wordsAre (l : List (Word × Instr)) : Bool :=
  l.all fun e => decide (decodeWord e.1 = .ok e.2) && decide (e.2.word launchParams = some e.1)

/-! ### Ill-formed instructions -/

theorem test_wellFormed_sr :
    let p := { launchParams with sridxSet := [⟨5, 6⟩] }
    Instr.wellFormed p (.mfsr 3 7) = false ∧ Instr.wellFormed p (.mtsr 3 4) = false ∧
      Instr.wellFormed p (.mfsr 3 6) = true ∧ Instr.wellFormed p (.mtsr 3 5) = true := by
  decide

theorem test_wellFormed_usr :
    Instr.wellFormed launchParams (.mfusr 0 4) = false ∧ Instr.wellFormed launchParams (.mtusr 0 1023) = false ∧
      Instr.wellFormed launchParams (.mfusr 0 3) = true ∧ Instr.wellFormed launchParams (.mtusr 0 0) = true := by
  decide

/-- `sv` has `SV_BITS` bits: 2 at reset, or another number (R5, R87). -/
theorem test_wellFormed_sv :
    Instr.wellFormed launchParams (.lw 0 1 2 4) = false ∧ Instr.wellFormed launchParams (.sbBi 0 1 2 3) = true ∧
      Instr.wellFormed { launchParams with svBits := 1 } (.sh 0 1 2 2) = false ∧
      Instr.wellFormed { launchParams with svBits := 3 } (.lhsBi 0 1 2 7) = true := by
  decide

/-- A d register is one of the `ND`: 2 at reset, or another number (R5, R34, R88). -/
theorem test_wellFormed_d :
    Instr.wellFormed launchParams (.mult64 2 0 0) = false ∧ Instr.wellFormed launchParams (.divs 1 0 0) = true ∧
      Instr.wellFormed { launchParams with nd := 1 } (.madd32 1 0 0) = false ∧
      Instr.wellFormed { launchParams with nd := 3 } (.div 2 0 0) = true := by
  decide

/-- An ill-formed instruction runs nowhere: it is `NotAnInstruction` with its word, where it has one (R100, R110, R230). -/
theorem test_ill_formed_stops :
    (faults (.mfsr 3 7) (start [] |>.withSets) (.notAnInstruction 0x1000 (some 0x64301C02)) &&
    faults (.mtusr 3 4) (start []) (.notAnInstruction 0x1000 (some 0x42301021)) &&
    faults (.lwBi 1 1 1 4) (start []) (.notAnInstruction 0x1000 none) &&
    faults (.div 2 0 0) (start []) (.notAnInstruction 0x1000 none) &&
    faults (.lwBi 1 1 1 3) (start [] |>.withSizes 2 1) (.notAnInstruction 0x1000 (some 0x38108706)) &&
    faults (.div 1 0 0) (start [] |>.withSizes 1 2) (.notAnInstruction 0x1000 (some 0x4220002F)) &&
    faults (.mtusr 3 4) (start [] |>.withItems []) (.notAnInstruction 0x1000 none)) = true := by
  decide

/-- Under larger `ND` and `SV_BITS` the larger operands run, and a half of a d register past the `ND`-th is no selector. -/
theorem test_larger_sizes :
    (runs (.mult64 2 1 1) (start [(1, 3)] |>.withSizes 3 2) [hasD 2 9, hasD 0 0, hasD 1 0] &&
    runs (.lbBi 2 1 3 7) (start [(1, 0x2000), (3, 1)] |>.withSizes 2 3) [hasReg 1 0x2080, hasReg 2 0] &&
    runs (.mfusr 0 1) (start [] |>.withSizes 1 2) [hasReg 0 0] &&
    faults (.mfusr 0 2) (start [] |>.withSizes 1 2) (.notAnInstruction 0x1000 (some 0x42000820))) = true := by
  decide

/-- `Unmodelled` carries the mnemonic (R281), at `PSW_INDEX` without a layout too (R111). -/
theorem test_unmodelled_mnemonic :
    (refuses (.mfsr 3 0x080) (start [] |>.withoutPswBits) (.unmodelled .mfsrPsw) &&
    refuses (.mtsr 3 0x080) (start [] |>.withoutPswBits) (.unmodelled .mtsrPsw)) = true ∧
      UnmodelledCase.mfsrPsw.mnemonic = "mfsr" ∧ UnmodelledCase.mtsrPsw.mnemonic = "mtsr" := by
  decide

/-! ### Decoding. Words with all-ones operands are written out from R91 to R99; the others are the vectors'. -/

theorem test_decode_system_registers : wordsAre [(0x64301402, .mfsr 3 5), (0x64301802, .mfsr 3 6),
    (0x64301403, .mtsr 3 5), (0x65FFFC02, .mfsr 31 1023), (0x65FFFC03, .mtsr 31 1023)] = true := by decide

theorem test_decode_load_store_immediate : wordsAre [(0x04008000, .lwi 0 1 0), (0x0400FFFF, .lwi 0 1 (-1)),
    (0x02008002, .lhi 0 1 2), (0x02008000, .lhi 0 1 0), (0x22008002, .lhsi 0 1 2), (0x00008004, .lbi 0 1 4),
    (0x00008008, .lbi 0 1 8), (0x20008004, .lbsi 0 1 4), (0x14208001, .swi 2 1 1), (0x12208001, .shi 2 1 1),
    (0x1020FFFF, .sbi 2 1 (-1)), (0x0C008001, .lwiBi 0 1 1), (0x0C00FFFE, .lwiBi 0 1 (-2)),
    (0x0A008001, .lhiBi 0 1 1), (0x2A00FFFF, .lhsiBi 0 1 (-1)), (0x08008001, .lbiBi 0 1 1),
    (0x28008003, .lbsiBi 0 1 3), (0x1C208001, .swiBi 2 1 1), (0x1C108001, .swiBi 1 1 1),
    (0x1A20FFFF, .shiBi 2 1 (-1)), (0x1A208001, .shiBi 2 1 1), (0x1820C000, .sbiBi 2 1 (-16384))] = true := by decide

theorem test_decode_load_store_register : wordsAre [(0x38008E02, .lw 0 1 3 2), (0x38308E02, .lw 3 1 3 2),
    (0x38008D01, .lh 0 1 3 1), (0x38008E11, .lhs 0 1 3 2), (0x38008C00, .lb 0 1 3 0), (0x38008F00, .lb 0 1 3 3),
    (0x38008E10, .lbs 0 1 3 2), (0x38208E0A, .sw 2 1 3 2), (0x38208D09, .sh 2 1 3 1), (0x38208C08, .sb 2 1 3 0),
    (0x38008E06, .lwBi 0 1 3 2), (0x38108C06, .lwBi 1 1 3 0), (0x38008D05, .lhBi 0 1 3 1),
    (0x38008C15, .lhsBi 0 1 3 0), (0x38008F04, .lbBi 0 1 3 3), (0x38008C14, .lbsBi 0 1 3 0),
    (0x38208E0E, .swBi 2 1 3 2), (0x38308E0E, .swBi 3 1 3 2), (0x3820840D, .shBi 2 1 1 0),
    (0x38208D0C, .sbBi 2 1 3 1), (0x39FFFF15, .lhsBi 31 31 31 3)] = true := by decide

theorem test_decode_jumps : wordsAre [(0x48000008, .j 8), (0x48FFFFFC, .j (-4)), (0x49000100, .jal 256),
    (0x4A001400, .jr 5), (0x4A007820, .ret 30), (0x4A701401, .jral 7 5), (0x4A501401, .jral 5 5),
    (0x4BF07C01, .jral 31 31)] = true := by decide

theorem test_decode_branches : wordsAre [(0x4C110006, .beq 1 2 6), (0x4C10A000, .beq 1 1 (-8192)),
    (0x4C115FFF, .bne 1 2 8191), (0x4C117FFE, .bne 1 2 (-2)), (0x4E12FFFE, .beqz 1 (-2)), (0x4E120004, .beqz 1 4),
    (0x4E137FFF, .bnez 1 32767), (0x4E138000, .bnez 1 (-32768)), (0x4E140004, .bgez 1 4), (0x4E150004, .bltz 1 4),
    (0x4E160004, .bgtz 1 4), (0x4E170004, .blez 1 4), (0x4E1C0040, .bgezal 1 64), (0x4FEC0004, .bgezal 30 4),
    (0x4E1DFFC0, .bltzal 1 (-64))] = true := by decide

theorem test_decode_alu_immediate : wordsAre [(0x50008001, .addi 0 1 1), (0x5000C000, .addi 0 1 (-16384)),
    (0x5200800A, .subri 0 1 10), (0x52008000, .subri 0 1 0), (0x540080FF, .andi 0 1 255),
    (0x5400FFFF, .andi 0 1 32767), (0x5800FFFF, .ori 0 1 32767), (0x5600FFFF, .xori 0 1 32767),
    (0x5C00FFFF, .slti 0 1 (-1)), (0x5C008005, .slti 0 1 5), (0x5E008005, .sltsi 0 1 5),
    (0x5E00FFFF, .sltsi 0 1 (-1)), (0x440FFFFF, .movi 0 (-1)), (0x4407FFFF, .movi 0 524287),
    (0x460FFFFF, .sethi 0 1048575), (0x46012345, .sethi 0 74565)] = true := by decide

theorem test_decode_alu_register : wordsAre [(0x40008800, .add 0 1 2), (0x40108400, .add 1 1 1),
    (0x40008801, .sub 0 1 2), (0x40008802, .and 0 1 2), (0x40008805, .nor 0 1 2), (0x40008405, .nor 0 1 1),
    (0x40008804, .or 0 1 2), (0x40008803, .xor 0 1 2), (0x40008806, .slt 0 1 2), (0x40008807, .slts 0 1 2),
    (0x40008818, .sva 0 1 2), (0x40008819, .svs 0 1 2), (0x40008010, .seb 0 1), (0x40008011, .seh 0 1),
    (0x40008013, .zeh 0 1), (0x40008014, .wsbh 0 1)] = true := by decide

theorem test_decode_shifts : wordsAre [(0x40008008, .slli 0 1 0), (0x4000FC08, .slli 0 1 31),
    (0x4000FC09, .srli 0 1 31), (0x40009009, .srli 0 1 4), (0x4000900A, .srai 0 1 4), (0x4000FC0A, .srai 0 1 31),
    (0x4000A00B, .rotri 0 1 8), (0x4000800B, .rotri 0 1 0), (0x4000880C, .sll 0 1 2), (0x4000880D, .srl 0 1 2),
    (0x4000880E, .sra 0 1 2), (0x4000840E, .sra 0 1 1), (0x4000880F, .rotr 0 1 2)] = true := by decide

theorem test_decode_multiply : wordsAre [(0x42008824, .mul 0 1 2), (0x42008828, .mults64 0 1 2),
    (0x42208828, .mults64 1 1 2), (0x42008829, .mult64 0 1 2), (0x4200882A, .madds64 0 1 2),
    (0x4200882B, .madd64 0 1 2), (0x4200882C, .msubs64 0 1 2), (0x4200882D, .msub64 0 1 2),
    (0x42008831, .mult32 0 1 2), (0x42208833, .madd32 1 1 2), (0x42208835, .msub32 1 1 2), (0x42002420, .mfusr 0 9),
    (0x42000420, .mfusr 0 1), (0x42002421, .mtusr 0 9), (0x42000021, .mtusr 0 0), (0x4200882F, .div 0 1 2),
    (0x4220882F, .div 1 1 2), (0x4200882E, .divs 0 1 2), (0x43FFFC20, .mfusr 31 1023), (0x43FFFC21, .mtusr 31 1023),
    (0x422FFC2F, .div 1 31 31)] = true := by decide

theorem test_decode_conditional_moves : wordsAre [(0x4000881A, .cmovz 0 1 2), (0x4000801A, .cmovz 0 1 0),
    (0x4000881B, .cmovn 0 1 2)] = true := by decide

theorem test_decode_serialization_and_traps : wordsAre [(0x64000008, .dsb), (0x64000009, .isb), (0x6400000A, .brk 0),
    (0x6400000B, .syscall 0), (0x64000005, .trap 0), (0x64400006, .teqz 4 0), (0x64400007, .tnez 4 0),
    (0x640FFFEA, .brk 0x7FFF), (0x640FFFEB, .syscall 0x7FFF), (0x640FFFE5, .trap 0x7FFF),
    (0x65FFFFE6, .teqz 31 0x7FFF), (0x65FFFFE7, .tnez 31 0x7FFF)] = true := by decide

theorem test_decode_returns_cache_misc : wordsAre [(0x64000004, .iret), (0x4A001520, .retItoff 5),
    (0x4A001720, .retToff 5), (0x64000001, .cctl 0), (0x64120023, .setendB), (0x64020023, .setendL),
    (0x64120043, .setgieE), (0x64020043, .setgieD), (0x64000000, .standby 0), (0x4A007D20, .retItoff 31),
    (0x65FFFFE1, .cctl 0xFFFFF), (0x64000040, .standby 2), (0x64000060, .standby 3)] = true := by decide

/-- The two spellings of a core instruction's words (R106, R107): the words of the vectors for `zeb r0, r1`, `jral r5`. -/
theorem test_decode_aliases :
    (Instr.zeb 0 1).word launchParams = some 0x540080FF ∧ decodeWord 0x540080FF = .ok (.andi 0 1 0xFF) ∧
      (Instr.jralLp 5).word launchParams = some 0x4BE01401 ∧ decodeWord 0x4BE01401 = .ok (.jral 30 5) := by
  decide

/-- Words that are no instruction: a word of another length (R80), an opcode no row has, and reserved fields that are
not 0 in ALU_1, ALU_2, JREG and MISC (R95, R96, R98, R99, R100). -/
theorem test_decode_rejects :
    decodeWord 0x80000000 = .error .sixteenBit ∧ decodeWord 0x7C000000 = .error .noRow ∧
      decodeWord 0x40008820 = .error .noRow ∧ decodeWord 0x40008C10 = .error .noRow ∧
      decodeWord 0x42108828 = .error .noRow ∧ decodeWord 0x42008868 = .error .noRow ∧
      decodeWord 0x4A001440 = .error .noRow ∧ decodeWord 0x4A101400 = .error .noRow ∧
      decodeWord 0x64100004 = .error .noRow ∧ decodeWord 0x64000028 = .error .noRow ∧
      decodeWord 0x6400000C = .error .noRow := by
  decide

/-- Bytes shorter than a word are rejected; the bytes after a word are handed back. -/
theorem test_decodeBytes :
    decodeBytes [0x64, 0x00, 0x00] = .error .tooShort ∧
      decodeBytes [0x64, 0x00, 0x00, 0x08, 0xFF] = .ok (.dsb, [0xFF]) := by
  decide

/-- A row of the table placed where reset fetches runs as the first instruction, `movi r0, -1`. -/
theorem test_step_placed :
    stepGoes (State.reset.withFetchWord 32 0x440FFFFF) 0x1004 [hasReg 0 0xFFFFFFFF] = true := by decide

/-- A word that is no instruction is reported with the pc (R100, R281). -/
theorem test_step_no_instruction :
    stepFaults (State.reset.withFetchWord 32 0x7C000000) (.notAnInstruction 0x1000 (some 0x7C000000)) = true := by
  decide

/-- The binary level (R313): an instruction is fetched from program text, at an odd halfword of a word too; a byte of it
that is unallocated faults, and so does one that is no text (R67), the first past the text of reset. -/
theorem test_step_binary :
    (stepGoes (State.reset.putBytes 0x1002 [0x44, 0x0F, 0xFF, 0xFF] |>.setPc 0x1002) 0x1006 [hasReg 0 0xFFFFFFFF] &&
    stepFaults (State.reset.withRegions [⟨0x1000, 0x1002, .text⟩]) (.accessFault 0x1000) &&
    stepFaults (State.reset.withRegions [⟨0x1000, 0x1002, .text⟩, ⟨0x1003, 0x1003, .data⟩]) (.accessFault 0x1000) &&
    stepGoes (State.reset.setPc 0x1FFC) 0x2000 [fun t => stepFaults t (.accessFault 0x2000)]) = true := by
  decide

/-- A program map (R310, R313): the item at `pc` runs, one that has no word too; outside the domain, at an odd address
too, is `AccessFault(pc)`; the launch memory is not asked. -/
theorem test_step_assembly :
    (let s := (start [(1, 0x2000)]).withItems [⟨0x1000, .jr 1⟩, ⟨0x1003, .dsb⟩, ⟨0x1000, .dsb⟩, ⟨0x1006, .div 2 0 1⟩]
     stepGoes (s.withRegions []) 0x2000 [] && stepFaults (s.setPc 0x1002) (.accessFault 0x1002) &&
       stepFaults (s.setPc 0x1003) (.accessFault 0x1003) &&
       stepGoes (s.setPc 0x1006 |>.withSizes 3 2) 0x100A [hasD 2 0] &&
       stepFaults (s.setPc 0x1006) (.notAnInstruction 0x1006 none)) = true := by
  decide

/-- Stores to where instructions are or may later be fetched (R67): refused at the binary level at the store, in its own
word, at `pc` + 4, and at either end of the text; done in data, and at the assembly level, where text is no part of
memory. -/
theorem test_store_to_text :
    (faults (.sbi 2 1 3) (start [(1, 0x1000)]) (.accessFault 0x1003) &&
    faults (.swi 2 1 1) (start [(1, 0x1000)]) (.accessFault 0x1004) &&
    faults (.sbi 2 1 0) (start [(1, 0x1FFF)]) (.accessFault 0x1FFF) &&
    runs (.sbi 2 1 0) (start [(1, 0x2000), (2, 7)]) [hasBytes 0x1FFF [0, 7, 0]] &&
    runs (.sbi 2 1 0) (start [(1, 0xFFF), (2, 7)]) [hasBytes 0xFFF [7, 0]] &&
    runs (.sbi 2 1 0) (start [(1, 0x1000), (2, 7)] |>.withItems []) [hasBytes 0x1000 [7]]) = true := by
  decide

/-- From reset `SR_PLAIN` is empty and `TRAP_OPERANDS` not fixed, the spec's defaults (D27, R112, D20). -/
theorem test_reset_defaults :
    (refuses (.mtsr 3 5) State.reset (.unmodelled .mtsrSideEffects) &&
    refuses (.tnez 3 0) State.reset (.unmodelled .tnez)) = true := by
  decide

/-- With nothing loaded, the first step from reset runs the word of zeros at the reset pc, `lbi r0, [r0 + 0]`. -/
theorem test_step_reset : stepGoes State.reset 0x1004 [hasReg 0 0] = true := by decide

/-! ### One step of each instruction -/

/-! system registers -/

theorem test_mfsr :
    runs (.mfsr 3 5) (start [] |>.setSysReg 5 0xCAFE0001 |>.withSets) [hasReg 3 0xCAFE0001] = true := by
  decide

theorem test_mtsr : runs (.mtsr 3 5) (start [(3, 0xBEEF)] |>.withSets) [hasSr 5 0xBEEF] = true := by decide

/-! load store immediate -/

theorem test_lwi :
    (runs (.lwi 0 1 0) (start [(1, 0x2000)] |>.withSample |>.withBe) [hasReg 0 0x78563412] &&
    runs (.lwi 0 1 (-1)) (start [(1, 0x2004)] |>.withSample) [hasReg 0 0x12345678]) = true := by
  decide

theorem test_lhi :
    (runs (.lhi 0 1 2) (start [(1, 0x2000)] |>.withSample) [hasReg 0 0xFF80] &&
    faults (.lhi 0 1 0) (start [(1, 0x2001)] |>.withSample) (.dataMisaligned 0x2001 2)) = true := by
  decide

theorem test_lhsi :
    (runs (.lhsi 0 1 2) (start [(1, 0x2000)] |>.withSample) [hasReg 0 0xFFFFFF80] &&
    runs (.lhsi 0 1 2) (start [(1, 0x2000)] |>.withSample |>.withBe) [hasReg 0 0xFFFF80FF]) = true := by
  decide

theorem test_lbi :
    (runs (.lbi 0 1 4) (start [(1, 0x2000)] |>.withSample) [hasReg 0 0x80] &&
    faults (.lbi 0 1 8) (start [(1, 0x2000)] |>.withSample |>.withRegions [⟨0x2000, 0x2007, .data⟩])
      (.accessFault 0x2008)) = true := by
  decide

theorem test_lbsi :
    runs (.lbsi 0 1 4) (start [(1, 0x2000)] |>.withSample |>.withBe) [hasReg 0 0xFFFFFF80] = true := by
  decide

theorem test_swi :
    (runs (.swi 2 1 1) (start [(1, 0x2000), (2, 0xA1B2C3D4)]) [hasBytes 0x2004 [0xD4, 0xC3, 0xB2, 0xA1]] &&
    runs (.swi 2 1 1) (start [(1, 0x2000), (2, 0xA1B2C3D4)] |>.withBe)
      [hasBytes 0x2004 [0xA1, 0xB2, 0xC3, 0xD4]]) = true := by
  decide

theorem test_shi :
    (runs (.shi 2 1 1) (start [(1, 0x2000), (2, 0xA1B2C3D4)]) [hasBytes 0x2002 [0xD4, 0xC3]] &&
    runs (.shi 2 1 1) (start [(1, 0x2000), (2, 0xA1B2C3D4)] |>.withBe) [hasBytes 0x2002 [0xC3, 0xD4]]) = true := by
  decide

theorem test_sbi :
    runs (.sbi 2 1 (-1)) (start [(1, 0x2001), (2, 0xA1B2C3D4)]) [hasBytes 0x2000 [0xD4]] = true := by
  decide

theorem test_lwiBi :
    (runs (.lwiBi 0 1 (-2)) (start [(1, 0x2004)] |>.withSample) [hasReg 0 0x17FFF80, hasReg 1 0x1FFC] &&
    refuses (.lwiBi 1 1 1) (start [(1, 0x2000)] |>.withSample) (.operandOverlap .rtRa)) = true := by
  decide

theorem test_lhiBi :
    runs (.lhiBi 0 1 1) (start [(1, 0x2006)] |>.withSample) [hasReg 0 0x17F, hasReg 1 0x2008] = true := by
  decide

theorem test_lhsiBi :
    runs (.lhsiBi 0 1 (-1)) (start [(1, 0x2004)] |>.withSample) [hasReg 0 0xFFFFFF80, hasReg 1 0x2002] = true := by
  decide

theorem test_lbiBi :
    runs (.lbiBi 0 1 1) (start [(1, 0x2005)] |>.withSample) [hasReg 0 0xFF, hasReg 1 0x2006] = true := by
  decide

theorem test_lbsiBi :
    runs (.lbsiBi 0 1 3) (start [(1, 0x2005)] |>.withSample) [hasReg 0 0xFFFFFFFF, hasReg 1 0x2008] = true := by
  decide

theorem test_swiBi :
    (runs (.swiBi 2 1 1) (start [(1, 0x2000), (2, 0x11223344)])
      [hasReg 1 0x2004, hasBytes 0x2000 [0x44, 0x33, 0x22, 0x11]] &&
    runs (.swiBi 1 1 1) (start [(1, 0x2000)]) [hasReg 1 0x2004, hasBytes 0x2001 [0x20]]) = true := by
  decide

theorem test_shiBi :
    (runs (.shiBi 2 1 (-1)) (start [(1, 0x2002), (2, 0x11223344)] |>.withBe)
      [hasReg 1 0x2000, hasBytes 0x2002 [0x33, 0x44]] &&
    faults (.shiBi 2 1 1) (start [(1, 0x2001), (2, 0x05)]) (.dataMisaligned 0x2001 2)) = true := by
  decide

theorem test_sbiBi :
    runs (.sbiBi 2 1 (-16384)) (start [(1, 0x2007), (2, 0x11223344)])
      [hasReg 1 0xFFFFE007, hasBytes 0x2007 [0x44]] = true := by
  decide

/-! load store register -/

theorem test_lw :
    runs (.lw 0 1 3 2) (start [(1, 0x2000), (3, 0x01)] |>.withSample |>.withBe) [hasReg 0 0x80FF7F01] = true := by
  decide

theorem test_lh :
    runs (.lh 0 1 3 1) (start [(1, 0x2000), (3, 0x01)] |>.withSample) [hasReg 0 0x1234] = true := by
  decide

theorem test_lhs :
    runs (.lhs 0 1 3 2) (start [(1, 0x2000), (3, 0x01)] |>.withSample) [hasReg 0 0xFFFFFF80] = true := by
  decide

theorem test_lb :
    (runs (.lb 0 1 3 0) (start [(1, 0x2004), (3, 0xFFFFFFFF)] |>.withSample) [hasReg 0 0x12] &&
    runs (.lb 0 1 3 3) (start [(1, 0x2000), (3, 0xE0000000)] |>.withSample) [hasReg 0 0x78]) = true := by
  decide

theorem test_lbs :
    runs (.lbs 0 1 3 2) (start [(1, 0x2000), (3, 0x01)] |>.withSample) [hasReg 0 0xFFFFFF80] = true := by
  decide

theorem test_sw :
    runs (.sw 2 1 3 2) (start [(1, 0x2000), (2, 0xA1B2C3D4), (3, 0x01)])
      [hasBytes 0x2004 [0xD4, 0xC3, 0xB2, 0xA1]] = true := by
  decide

theorem test_sh :
    runs (.sh 2 1 3 1) (start [(1, 0x2000), (2, 0xA1B2C3D4), (3, 0x01)] |>.withBe)
      [hasBytes 0x2002 [0xC3, 0xD4]] = true := by
  decide

theorem test_sb :
    runs (.sb 2 1 3 0) (start [(1, 0x2000), (2, 0xA1B2C3D4), (3, 0x07)]) [hasBytes 0x2007 [0xD4]] = true := by
  decide

theorem test_lwBi :
    (runs (.lwBi 0 1 3 2) (start [(1, 0x2000), (3, 0x01)] |>.withSample) [hasReg 0 0x12345678, hasReg 1 0x2004] &&
    refuses (.lwBi 3 1 3 0) (start [(1, 0x2000), (3, 0x01)] |>.withSample) (.operandOverlap .rtRb)) = true := by
  decide

theorem test_lhBi :
    runs (.lhBi 0 1 3 1) (start [(1, 0x2004), (3, 0xFFFFFFFF)] |>.withSample)
      [hasReg 0 0xFF80, hasReg 1 0x2002] = true := by
  decide

theorem test_lhsBi :
    runs (.lhsBi 0 1 3 0) (start [(1, 0x2004), (3, 0x01)] |>.withSample)
      [hasReg 0 0xFFFFFF80, hasReg 1 0x2005] = true := by
  decide

theorem test_lbBi :
    runs (.lbBi 0 1 3 3) (start [(1, 0x2006), (3, 0x01)] |>.withSample) [hasReg 0 0x7F, hasReg 1 0x200E] = true := by
  decide

theorem test_lbsBi :
    runs (.lbsBi 0 1 3 0) (start [(1, 0x2005), (3, 0x01)] |>.withSample)
      [hasReg 0 0xFFFFFFFF, hasReg 1 0x2006] = true := by
  decide

theorem test_swBi :
    (runs (.swBi 2 1 3 2) (start [(1, 0x2000), (2, 0x11223344), (3, 0x01)])
      [hasReg 1 0x2004, hasBytes 0x2000 [0x44, 0x33, 0x22, 0x11]] &&
    runs (.swBi 3 1 3 2) (start [(1, 0x2000), (3, 0x01)]) [hasReg 1 0x2004, hasBytes 0x2000 [0x01]]) = true := by
  decide

theorem test_shBi :
    runs (.shBi 2 1 1 0) (start [(1, 0x2000), (2, 0x11223344)])
      [hasReg 1 0x4000, hasBytes 0x2000 [0x44, 0x33]] = true := by
  decide

theorem test_sbBi :
    runs (.sbBi 2 1 3 1) (start [(1, 0x2003), (2, 0x11223344), (3, 0x02)])
      [hasReg 1 0x2007, hasBytes 0x2003 [0x44]] = true := by
  decide

/-! jumps -/

theorem test_j :
    (goes (.j (-4)) (start []) 0xFF8 [] &&
    goes (.j 8388607) (start [] |>.setPc 0xFFFFFFF0) 0xFFFFEE []) = true := by
  decide

theorem test_jal : goes (.jal 256) (start []) 0x1200 [hasReg 30 0x1004] = true := by decide

theorem test_jr :
    (goes (.jr 5) (start [(5, 0x2002)]) 0x2002 [] &&
    faults (.jr 5) (start [(5, 0x2001)]) (.instructionMisaligned 0x2001)) = true := by
  decide

theorem test_ret : goes (.ret 30) (start [(30, 0x400)]) 0x400 [] = true := by decide

theorem test_jralLp :
    (goes (.jralLp 5) (start [(5, 0x2000)]) 0x2000 [hasReg 30 0x1004] &&
    goes (.jralLp 30) (start [(30, 0x3000)]) 0x3000 [hasReg 30 0x1004]) = true := by
  decide

theorem test_jral :
    (goes (.jral 7 5) (start [(5, 0x2000)]) 0x2000 [hasReg 7 0x1004] &&
    goes (.jral 5 5) (start [(5, 0x2000)]) 0x2000 [hasReg 5 0x1004]) = true := by
  decide

/-! branches -/

theorem test_beq :
    (goes (.beq 1 2 6) (start [(1, 0x05), (2, 0x05)]) 0x100C [] &&
    runs (.beq 1 2 6) (start [(1, 0x05), (2, 0x06)]) []) = true := by
  decide

theorem test_bne :
    (goes (.bne 1 2 8191) (start [(1, 0x05), (2, 0x06)]) 0x4FFE [] &&
    runs (.bne 1 2 (-2)) (start [(1, 0x80000000), (2, 0x80000000)]) []) = true := by
  decide

theorem test_beqz :
    (goes (.beqz 1 (-2)) (start [(1, 0x00)]) 0xFFC [] &&
    runs (.beqz 1 (-2)) (start [(1, 0x80000000)]) []) = true := by
  decide

theorem test_bnez :
    (goes (.bnez 1 32767) (start [(1, 0x01)]) 0x10FFE [] &&
    goes (.bnez 1 (-32768)) (start [(1, 0x01)] |>.setPc 0x20000) 0x10000 []) = true := by
  decide

theorem test_bgez :
    (goes (.bgez 1 4) (start [(1, 0x00)]) 0x1008 [] &&
    runs (.bgez 1 4) (start [(1, 0x80000000)]) []) = true := by
  decide

theorem test_bltz :
    (goes (.bltz 1 4) (start [(1, 0xFFFFFFFF)]) 0x1008 [] &&
    runs (.bltz 1 4) (start [(1, 0x00)]) []) = true := by
  decide

theorem test_bgtz :
    (goes (.bgtz 1 4) (start [(1, 0x7FFFFFFF)]) 0x1008 [] &&
    runs (.bgtz 1 4) (start [(1, 0x00)]) []) = true := by
  decide

theorem test_blez :
    (goes (.blez 1 4) (start [(1, 0x00)]) 0x1008 [] &&
    runs (.blez 1 4) (start [(1, 0x01)]) []) = true := by
  decide

theorem test_bgezal :
    (runs (.bgezal 1 64) (start [(1, 0xFFFFFFF9)]) [hasReg 30 0x1004] &&
    refuses (.bgezal 30 4) (start [(30, 0x07)]) (.operandOverlap .rtLp)) = true := by
  decide

theorem test_bltzal :
    (goes (.bltzal 1 (-64)) (start [(1, 0xFFFFFFF9)]) 0xF80 [hasReg 30 0x1004] &&
    runs (.bltzal 1 (-64)) (start [(1, 0x00)]) [hasReg 30 0x1004]) = true := by
  decide

/-! alu immediate -/

theorem test_addi :
    (runs (.addi 0 1 1) (start [(1, 0xFFFFFFFF)]) [hasReg 0 0x00] &&
    runs (.addi 0 1 (-16384)) (start [(1, 0x00)]) [hasReg 0 0xFFFFC000]) = true := by
  decide

theorem test_subri :
    (runs (.subri 0 1 10) (start [(1, 0x03)]) [hasReg 0 0x07] &&
    runs (.subri 0 1 0) (start [(1, 0x01)]) [hasReg 0 0xFFFFFFFF]) = true := by
  decide

theorem test_andi :
    (runs (.andi 0 1 255) (start [(1, 0x12345680)]) [hasReg 0 0x80] &&
    runs (.andi 0 1 32767) (start [(1, 0xFFFFFFFF)]) [hasReg 0 0x7FFF]) = true := by
  decide

theorem test_ori : runs (.ori 0 1 32767) (start [(1, 0x80000000)]) [hasReg 0 0x80007FFF] = true := by decide

theorem test_xori : runs (.xori 0 1 32767) (start [(1, 0xFFFFFFFF)]) [hasReg 0 0xFFFF8000] = true := by decide

theorem test_slti :
    (runs (.slti 0 1 (-1)) (start [(1, 0x05)]) [hasReg 0 0x01] &&
    runs (.slti 0 1 5) (start [(1, 0xFFFFFFFF)]) [hasReg 0 0x00]) = true := by
  decide

theorem test_sltsi :
    (runs (.sltsi 0 1 5) (start [(1, 0xFFFFFFFF)]) [hasReg 0 0x01] &&
    runs (.sltsi 0 1 (-1)) (start [(1, 0x05)]) [hasReg 0 0x00]) = true := by
  decide

theorem test_movi :
    (runs (.movi 0 (-1)) (start []) [hasReg 0 0xFFFFFFFF] &&
    runs (.movi 0 (-524288)) (start []) [hasReg 0 0xFFF80000]) = true := by
  decide

theorem test_sethi :
    (runs (.sethi 0 1048575) (start [(0, 0xABC)]) [hasReg 0 0xFFFFF000] &&
    runs (.sethi 0 74565) (start []) [hasReg 0 0x12345000]) = true := by
  decide

/-! alu register -/

theorem test_add :
    (runs (.add 0 1 2) (start [(1, 0x7FFFFFFF), (2, 0x01)]) [hasReg 0 0x80000000] &&
    runs (.add 1 1 1) (start [(1, 0x80000001)]) [hasReg 1 0x02]) = true := by
  decide

theorem test_sub : runs (.sub 0 1 2) (start [(1, 0x00), (2, 0x01)]) [hasReg 0 0xFFFFFFFF] = true := by decide

theorem test_and :
    runs (.and 0 1 2) (start [(1, 0xFF00FF00), (2, 0xFF00FF0)]) [hasReg 0 0xF000F00] = true := by
  decide

theorem test_nor :
    (runs (.nor 0 1 2) (start [(1, 0xFF00FF00), (2, 0xFF00FF0)]) [hasReg 0 0xF000F] &&
    runs (.nor 0 1 1) (start [(1, 0x12345678)]) [hasReg 0 0xEDCBA987]) = true := by
  decide

theorem test_or : runs (.or 0 1 2) (start [(1, 0xFF00FF00), (2, 0xFF00FF0)]) [hasReg 0 0xFFF0FFF0] = true := by decide

theorem test_xor :
    runs (.xor 0 1 2) (start [(1, 0xFF00FF00), (2, 0xFF00FF0)]) [hasReg 0 0xF0F0F0F0] = true := by
  decide

theorem test_slt :
    (runs (.slt 0 1 2) (start [(1, 0x01), (2, 0xFFFFFFFF)]) [hasReg 0 0x01] &&
    runs (.slt 0 1 2) (start [(1, 0xFFFFFFFF), (2, 0x01)]) [hasReg 0 0x00]) = true := by
  decide

theorem test_slts :
    (runs (.slts 0 1 2) (start [(1, 0x01), (2, 0xFFFFFFFF)]) [hasReg 0 0x00] &&
    runs (.slts 0 1 2) (start [(1, 0x80000000), (2, 0x7FFFFFFF)]) [hasReg 0 0x01]) = true := by
  decide

theorem test_sva :
    (runs (.sva 0 1 2) (start [(1, 0x80000000), (2, 0xFFFFFFFF)]) [hasReg 0 0x01] &&
    runs (.sva 0 1 2) (start [(1, 0xFFFFFFFF), (2, 0x01)]) [hasReg 0 0x00]) = true := by
  decide

theorem test_svs :
    (runs (.svs 0 1 2) (start [(1, 0x00), (2, 0x80000000)]) [hasReg 0 0x01] &&
    runs (.svs 0 1 2) (start [(1, 0x00), (2, 0x01)]) [hasReg 0 0x00]) = true := by
  decide

theorem test_seb :
    (runs (.seb 0 1) (start [(1, 0x12345680)]) [hasReg 0 0xFFFFFF80] &&
    runs (.seb 0 1) (start [(1, 0xFFFFFF7F)]) [hasReg 0 0x7F]) = true := by
  decide

theorem test_seh : runs (.seh 0 1) (start [(1, 0x12348000)]) [hasReg 0 0xFFFF8000] = true := by decide

theorem test_zeb : runs (.zeb 0 1) (start [(1, 0x12345680)]) [hasReg 0 0x80] = true := by decide

theorem test_zeh : runs (.zeh 0 1) (start [(1, 0xFFFF8000)]) [hasReg 0 0x8000] = true := by decide

theorem test_wsbh : runs (.wsbh 0 1) (start [(1, 0x11223344)]) [hasReg 0 0x22114433] = true := by decide

/-! shifts -/

theorem test_slli :
    (runs (.slli 0 1 0) (start [(1, 0x80000001)]) [hasReg 0 0x80000001] &&
    runs (.slli 0 1 31) (start [(1, 0x80000001)]) [hasReg 0 0x80000000]) = true := by
  decide

theorem test_srli :
    (runs (.srli 0 1 31) (start [(1, 0x80000001)]) [hasReg 0 0x01] &&
    runs (.srli 0 1 4) (start [(1, 0x80000001)]) [hasReg 0 0x8000000]) = true := by
  decide

theorem test_srai :
    (runs (.srai 0 1 4) (start [(1, 0x80000001)]) [hasReg 0 0xF8000000] &&
    runs (.srai 0 1 31) (start [(1, 0x7FFFFFFF)]) [hasReg 0 0x00]) = true := by
  decide

theorem test_rotri :
    (runs (.rotri 0 1 8) (start [(1, 0x11223344)]) [hasReg 0 0x44112233] &&
    runs (.rotri 0 1 0) (start [(1, 0x11223344)]) [hasReg 0 0x11223344]) = true := by
  decide

theorem test_sll :
    (runs (.sll 0 1 2) (start [(1, 0x01), (2, 0x20)]) [hasReg 0 0x01] &&
    runs (.sll 0 1 2) (start [(1, 0x01), (2, 0xFFFFFFFF)]) [hasReg 0 0x80000000]) = true := by
  decide

theorem test_srl : runs (.srl 0 1 2) (start [(1, 0x80000000), (2, 0x21)]) [hasReg 0 0x40000000] = true := by decide

theorem test_sra :
    (runs (.sra 0 1 2) (start [(1, 0x80000000), (2, 0x21)]) [hasReg 0 0xC0000000] &&
    runs (.sra 0 1 1) (start [(1, 0xFFFFFF04)]) [hasReg 0 0xFFFFFFF0]) = true := by
  decide

theorem test_rotr :
    (runs (.rotr 0 1 2) (start [(1, 0x11223344), (2, 0x28)]) [hasReg 0 0x44112233] &&
    runs (.rotr 0 1 2) (start [(1, 0x01), (2, 0x01)]) [hasReg 0 0x80000000]) = true := by
  decide

/-! multiply -/

theorem test_mul :
    (runs (.mul 0 1 2) (start [(1, 0xFFFFFFFF), (2, 0xFFFFFFFF)]) [hasReg 0 0x01] &&
    runs (.mul 0 1 2) (start [(1, 0x10000), (2, 0x10000)]) [hasReg 0 0x00]) = true := by
  decide

theorem test_mults64 :
    (runs (.mults64 0 1 2) (start [(1, 0xFFFFFFFF), (2, 0xFFFFFFFF)]) [hasD 0 0x01] &&
    runs (.mults64 1 1 2) (start [(1, 0x80000000), (2, 0x7FFFFFFF)]) [hasD 1 0xC000000080000000]) = true := by
  decide

theorem test_mult64 :
    runs (.mult64 0 1 2) (start [(1, 0xFFFFFFFF), (2, 0xFFFFFFFF)]) [hasD 0 0xFFFFFFFE00000001] = true := by
  decide

theorem test_madds64 :
    runs (.madds64 0 1 2) (start [(1, 0xFFFFFFFE), (2, 0x03)] |>.setDreg 0 0x05)
      [hasD 0 0xFFFFFFFFFFFFFFFF] = true := by
  decide

theorem test_madd64 :
    (runs (.madd64 0 1 2) (start [(1, 0xFFFFFFFE), (2, 0x03)] |>.setDreg 0 0x05) [hasD 0 0x2FFFFFFFF] &&
    runs (.madd64 0 1 2) (start [(1, 0x01), (2, 0x01)] |>.setDreg 0 0xFFFFFFFFFFFFFFFF) [hasD 0 0x00]) = true := by
  decide

theorem test_msubs64 :
    runs (.msubs64 0 1 2) (start [(1, 0xFFFFFFFE), (2, 0x03)] |>.setDreg 0 0x05) [hasD 0 0x0B] = true := by
  decide

theorem test_msub64 :
    runs (.msub64 0 1 2) (start [(1, 0x02), (2, 0x03)] |>.setDreg 0 0x05) [hasD 0 0xFFFFFFFFFFFFFFFF] = true := by
  decide

theorem test_mult32 :
    runs (.mult32 0 1 2) (start [(1, 0x10001), (2, 0x10001)] |>.setDreg 0 0xAAAAAAAA55555555)
      [hasD 0 0xAAAAAAAA00020001] = true := by
  decide

theorem test_madd32 :
    runs (.madd32 1 1 2) (start [(1, 0x07), (2, 0x06)] |>.setDreg 1 0x1FFFFFFFF) [hasD 1 0x100000029] = true := by
  decide

theorem test_msub32 :
    runs (.msub32 1 1 2) (start [(1, 0x07), (2, 0x06)] |>.setDreg 1 0x100000001) [hasD 1 0x1FFFFFFD7] = true := by
  decide

theorem test_mfusr :
    (runs (.mfusr 0 9) (start [] |>.setUsrEntry 9 0xBADF00D |>.withSets) [hasReg 0 0xBADF00D] &&
    runs (.mfusr 0 1) (start [] |>.setDreg 0 0x1122334455667788 |>.withSets) [hasReg 0 0x11223344]) = true := by
  decide

theorem test_mtusr :
    (runs (.mtusr 0 9) (start [(0, 0x600DCAFE)] |>.withSets) [hasUsr 9 0x600DCAFE] &&
    runs (.mtusr 0 0) (start [(0, 0xDDDDDDDD)] |>.setDreg 0 0x1122334455667788 |>.withSets)
      [hasD 0 0x11223344DDDDDDDD]) = true := by
  decide

theorem test_div :
    (runs (.div 1 1 2) (start [(1, 0xFFFFFFFF), (2, 0x10)]) [hasD 1 0xF0FFFFFFF] &&
    refuses (.div 0 1 2) (start [(1, 0x07), (2, 0x00)]) (.divideUndefined .zero)) = true := by
  decide

theorem test_divs :
    (runs (.divs 0 1 2) (start [(1, 0xFFFFFFF9), (2, 0x02)]) [hasD 0 0x1FFFFFFFC] &&
    runs (.divs 0 1 2) (start [(1, 0xFFFFFFF9), (2, 0x02)] |>.withTrunc) [hasD 0 0xFFFFFFFFFFFFFFFD]) = true := by
  decide

/-! conditional moves -/

theorem test_cmovz :
    (runs (.cmovz 0 1 2) (start [(0, 0xAAAAAAAA), (1, 0x55555555), (2, 0x00)]) [hasReg 0 0x55555555] &&
    runs (.cmovz 0 1 2) (start [(0, 0xAAAAAAAA), (1, 0x55555555), (2, 0x80000000)]) []) = true := by
  decide

theorem test_cmovn :
    (runs (.cmovn 0 1 2) (start [(0, 0xAAAAAAAA), (1, 0x55555555), (2, 0x80000000)]) [hasReg 0 0x55555555] &&
    runs (.cmovn 0 1 2) (start [(0, 0xAAAAAAAA), (1, 0x55555555), (2, 0x00)]) []) = true := by
  decide

/-! serialization and traps -/

theorem test_dsb : runs .dsb (start []) [] = true := by decide

theorem test_isb : runs .isb (start []) [] = true := by decide

theorem test_brk :
    (faults (.brk 0) (start []) (.breakpoint 0x1000 none) &&
    faults (.brk 7) (start [] |>.withTrapOperands) (.breakpoint 0x1000 (some 7))) = true := by
  decide

theorem test_syscall :
    (faults (.syscall 0) (start []) (.systemCall 0x1000 none) &&
    faults (.syscall 7) (start [] |>.withTrapOperands) (.systemCall 0x1000 (some 7))) = true := by
  decide

theorem test_trap :
    (faults (.trap 0) (start []) (.trap 0x1000 none) &&
    faults (.trap 7) (start [] |>.withTrapOperands) (.trap 0x1000 (some 7))) = true := by
  decide

theorem test_teqz :
    (refuses (.teqz 4 0) (start [(4, 0x00)]) (.unmodelled .teqz) &&
    faults (.teqz 4 7) (start [] |>.withTrapOperands) (.trap 0x1000 (some 7))) = true := by
  decide

theorem test_tnez :
    (refuses (.tnez 4 0) (start [(4, 0x00)]) (.unmodelled .tnez) &&
    runs (.tnez 4 7) (start [] |>.withTrapOperands) []) = true := by
  decide

/-! returns cache misc -/

theorem test_iret : refuses .iret (start []) (.unmodelled .iret) = true := by decide

theorem test_retItoff :
    goes (.retItoff 5) (start [(5, 0x8000)] |>.setPsw ⟨false, false, true, true⟩) 0x8000 [hasPsw
      ⟨false, false, false, true⟩] = true := by
  decide

theorem test_retToff :
    (goes (.retToff 5) (start [(5, 0x8000)] |>.setPsw ⟨false, false, true, true⟩) 0x8000 [hasPsw
      ⟨false, false, false, false⟩] &&
    faults (.retToff 5) (start [(5, 0x8001)] |>.setPsw ⟨false, false, true, true⟩)
      (.instructionMisaligned 0x8001)) = true := by
  decide

theorem test_cctl : refuses (.cctl 0) (start []) (.unmodelled .cctl) = true := by decide

theorem test_setendB : runs .setendB (start []) [hasPsw ⟨true, false, false, false⟩] = true := by decide

theorem test_setendL : runs .setendL (start [] |>.withBe) [hasPsw ⟨false, false, false, false⟩] = true := by decide

theorem test_setgieE : runs .setgieE (start []) [hasPsw ⟨false, true, false, false⟩] = true := by decide

theorem test_setgieD :
    runs .setgieD (start [] |>.setPsw ⟨false, true, false, false⟩) [hasPsw ⟨false, false, false, false⟩] = true := by
  decide

theorem test_standby :
    (faults (.standby 0) (start []) (.standby 0x1000 none) &&
    faults (.standby 2) (start [] |>.withTrapOperands) (.standby 0x1000 (some 2))) = true := by
  decide

/-! ### Witnesses: for each statement with hypotheses, a state and operands that meet them together, a witness for each
clause, at a boundary value where the clause has a range. -/

theorem reaches_of {s : State} {ok : Nat → Bool} {a : Word} {n : Nat} {p : Word}
    (h : (decide (a.toNat % n = 0) && decide (s.translate .data a = some p) &&
      (addresses p n).all fun b => ok b.toNat) = true) : s.Reaches ok a n p := by
  simp only [Bool.and_eq_true, decide_eq_true_eq, List.all_eq_true] at h
  exact ⟨h.1.1, h.1.2, h.2⟩

/-- The reset state with a `dsb` placed where it fetches. -/
def placed : State := (start []).withFetchWord 32 0x64000008

theorem test_hyp_EveryStepKeepsTheInvariant : placed.Inv ∧ ∃ t, step placed = .next t :=
  ⟨⟨by decide, by decide, by decide, by decide, by decide, by decide, by decide⟩, _, rfl⟩

theorem test_hyp_EveryStepKeepsTheInvariant_top :
    let s := (start [] |>.setPc 0xFFFFFFFE).withFetchWord 32 0x64000008
    s.Inv ∧ ∃ t, step s = .next t :=
  ⟨⟨by decide, by decide, by decide, by decide, by decide, by decide, by decide⟩, _, rfl⟩

theorem test_hyp_DecodingAnEncodedInstruction :
    (Instr.lw 31 31 31 3).word launchParams = some 0x39FFFF02 ∧ launchParams.nd ≤ 2 ∧ launchParams.svBits ≤ 2 ∧
      (Instr.lw 31 31 31 3).wellFormed launchParams = true ∧ (Instr.div 1 31 31).wellFormed launchParams = true := by
  decide

theorem test_hyp_EncodingADecodedWord : decodeWord 0x65FFFFE6 = .ok (.teqz 31 0x7FFF) := by decide

/-- A state with a program map of one `dsb` at the address. -/
def mapped (a : Word) : State := ((start []).withItems [⟨a, .dsb⟩]).setPc a

theorem test_hyp_EveryStepKeepsTheInvariant_assembly :
    (mapped 0xFFFFFFFE).Inv ∧ ∃ t, step (mapped 0xFFFFFFFE) = .next t :=
  ⟨⟨by decide, by decide, by decide, by decide, by decide, by decide, by decide⟩, _, rfl⟩

theorem test_hyp_StepRunsTheInstructionAtPc :
    placed.run = .running ∧ placed.translate .fetch placed.pc = some 0x1000 ∧ placed.params.program = .binary ∧
      (∀ b ∈ addresses 0x1000 4, placed.params.fetchable b.toNat = true) ∧
      decodeWord (placed.instructionWordAt 0x1000) = .ok .dsb :=
  ⟨by decide, by decide, by decide, List.all_eq_true.mp (by decide), by decide⟩

theorem test_hyp_StepRunsTheInstructionAtPc_assembly :
    (mapped 0xFFFFFFFE).run = .running ∧ (mapped 0xFFFFFFFE).translate .fetch 0xFFFFFFFE = some 0xFFFFFFFE ∧
      (mapped 0xFFFFFFFE).params.program = .assembly [⟨0xFFFFFFFE, .dsb⟩] ∧
      instrAt [⟨0xFFFFFFFE, .dsb⟩] 0xFFFFFFFE = some .dsb := by
  decide

theorem test_hyp_StepStopsWhereThereIsNoInstruction_translation :
    let s := placed.setPsw ⟨false, false, true, false⟩ |>.withTranslation [⟨.fetch, 0x1000, none⟩]
    s.run = .running ∧ s.translate .fetch s.pc = none := by
  decide

/-- One past the last address of a program map, and an odd address that an item names. -/
theorem test_hyp_StepStopsWhereThereIsNoInstruction_map :
    let s := (mapped 0x1000).setPc 0x1004
    let s' := mapped 0x1001
    (s.run = .running ∧ s.translate .fetch s.pc = some 0x1004 ∧ s.params.program = .assembly [⟨0x1000, .dsb⟩] ∧
      instrAt [⟨0x1000, .dsb⟩] 0x1004 = none) ∧
    (s'.run = .running ∧ s'.translate .fetch s'.pc = some 0x1001 ∧ s'.params.program = .assembly [⟨0x1001, .dsb⟩] ∧
      (0x1001#32).toNat % 2 = 1) := by
  decide

/-- The last byte fetched is the first that is unallocated; or the first that is data. -/
theorem test_hyp_StepStopsWhereThereIsNoInstruction_access :
    let s := (start []).withRegions [⟨0x1000, 0x1002, .text⟩]
    let s' := (start []).setPc 0x1FFD
    (s.run = .running ∧ s.translate .fetch s.pc = some 0x1000 ∧ s.params.program = .binary ∧
      ∃ b ∈ addresses 0x1000 4, s.params.fetchable b.toNat = false) ∧
    (s'.run = .running ∧ s'.translate .fetch s'.pc = some 0x1FFD ∧ s'.params.program = .binary ∧
      ∃ b ∈ addresses 0x1FFD 4, s'.params.fetchable b.toNat = false) :=
  ⟨⟨by decide, by decide, by decide, 0x1003, by decide, by decide⟩,
    ⟨by decide, by decide, by decide, 0x2000, by decide, by decide⟩⟩

theorem test_hyp_StepStopsWhereThereIsNoInstruction_word :
    let s := (start []).withFetchWord 32 0x7C000000
    s.run = .running ∧ s.translate .fetch s.pc = some 0x1000 ∧ s.params.program = .binary ∧
      (∀ b ∈ addresses 0x1000 4, s.params.fetchable b.toNat = true) ∧
      ∀ i, decodeWord (s.instructionWordAt 0x1000) = .ok i → i.wellFormed s.params = false :=
  ⟨by decide, by decide, by decide, List.all_eq_true.mp (by decide), fun i h => by
    have e : decodeWord (((start []).withFetchWord 32 0x7C000000).instructionWordAt 0x1000) = .error .noRow := by decide
    rw [e] at h; cases h⟩

/-- The word of `mfusr r0, 4`, whose selector is one past `USR_SET`. -/
theorem test_hyp_StepStopsWhereThereIsNoInstruction_selector :
    let s := (start []).withFetchWord 32 0x42001020
    s.run = .running ∧ s.translate .fetch s.pc = some 0x1000 ∧ s.params.program = .binary ∧
      (∀ b ∈ addresses 0x1000 4, s.params.fetchable b.toNat = true) ∧
      ∀ i, decodeWord (s.instructionWordAt 0x1000) = .ok i → i.wellFormed s.params = false :=
  ⟨by decide, by decide, by decide, List.all_eq_true.mp (by decide), fun i h => by
    have e : decodeWord (((start []).withFetchWord 32 0x42001020).instructionWordAt 0x1000) = .ok (.mfusr 0 4) := by
      decide
    rw [e] at h; cases h; decide⟩

theorem test_hyp_StepStopsWhereThereIsNoInstruction_standby :
    { State.reset with run := .standby (some 3) : State }.run = .standby (some 3) := rfl

theorem test_hyp_StepStopsWhereThereIsNoInstruction_operand :
    (Instr.lw 0 0 0 4).wellFormed launchParams = false ∧ (Instr.mult64 2 0 0).wellFormed launchParams = false ∧
      (Instr.mfusr 0 4).wellFormed launchParams = false := by
  decide

theorem test_hyp_APlacedInstructionRuns : decodeTableWord 32 0x64000008 = some .dsb := by decide

/-- A store that completes, `swi r0, [r1 + 0]` at the end of the text, beside unallocated memory: the two ends of the text,
the first byte past the data, and the last byte of the store's own word. -/
def storing : State :=
  ((start [(1, 0x3000)]).withRegions [⟨0x1000, 0x1007, .text⟩, ⟨0x3000, 0x3003, .data⟩]
    |>.putBytes 0x1000 [0x14, 0x00, 0x80, 0x00])

theorem test_hyp_ProgramTextIsNeverWritten :
    (∃ t, step storing = .next t) ∧ storing.params.program = .binary ∧
      storing.params.loadable (0x3004#32).toNat = false ∧ storing.params.fetchable (0x1000#32).toNat = true ∧
      storing.params.fetchable (0x1007#32).toNat = true ∧ 0x1003#32 ∈ addresses storing.fetchAddress 4 :=
  ⟨⟨_, rfl⟩, by decide, by decide, by decide, by decide, by decide⟩

/-- The step now, and the next step: a store of a word to 0x1004 reaches the last byte fetched there. -/
theorem test_hyp_ProgramTextIsNeverWritten_run :
    (∃ v, After 0 placed placed ∧ step placed = .next v) ∧
      let s := placed.setReg 1 0x1004
      ∃ u v, After 1 s u ∧ step u = .next v ∧ 0x1007#32 ∈ addresses u.fetchAddress 4 ∧ isStore (.swi 0 1 0) = true ∧
        (Instr.swi 0 1 0).wellFormed s.params = true ∧ dataAccess (.swi 0 1 0) s = some (0x1004, 4) ∧
        (0x1004#32).toNat % 4 = 0 ∧ s.translate .data 0x1004 = some 0x1004 ∧ 0x1007#32 ∈ addresses 0x1004 4 :=
  ⟨⟨_, rfl, rfl⟩, _, _,
      ⟨_, rfl, rfl⟩, rfl, by decide, by decide, by decide, by decide, by decide, by decide, by decide⟩

theorem test_hyp_MemoryChangesOnlyAtAStoresBytes_load :
    ∃ t, exec (.lwi 0 1 0) (start []) = .next t ∧ isStore (.lwi 0 1 0) = false := ⟨_, rfl, rfl⟩

theorem test_hyp_MemoryChangesOnlyAtAStoresBytes_store :
    let s := start [(1, 0xFFFFFFFC)]
    (∃ t, exec (.swi 2 1 0) s = .next t) ∧ isStore (.swi 2 1 0) = true ∧
      dataAccess (.swi 2 1 0) s = some (0xFFFFFFFC, 4) ∧ s.translate .data 0xFFFFFFFC = some 0xFFFFFFFC :=
  ⟨⟨_, rfl⟩, by decide, by decide, by decide⟩

theorem test_hyp_PswChangesOnlyByItsInstructions :
    ∃ t, exec (.add 1 2 3) (start []) = .next t ∧ writesPsw (.add 1 2 3) = false := ⟨_, rfl, rfl⟩

theorem test_hyp_TranslationIsTurnedOnOnlyByMtsr_itoff : ∃ t, exec (.retItoff 1) (start []) = .next t := ⟨_, rfl⟩

theorem test_hyp_TranslationIsTurnedOnOnlyByMtsr_toff : ∃ t, exec (.retToff 1) (start []) = .next t := ⟨_, rfl⟩

theorem test_hyp_TranslationIsTurnedOnOnlyByMtsr_other :
    let s := (start []).setPsw ⟨false, false, true, true⟩
    (∀ rt n, Instr.setendB ≠ .mtsr rt n) ∧ ∃ t, exec .setendB s = .next t ∧ t.psw.it = true ∧ t.psw.dt = true :=
  ⟨fun _ _ h => (by cases h), _, rfl, rfl, rfl⟩

theorem test_hyp_InterruptEnableIsNeverRead : ∀ rt n, Instr.setgieE ≠ .mfsr rt n := fun _ _ h => by cases h

theorem test_hyp_SpecialFilesChangeOnlyByTheirInstructions :
    (∃ t, exec .setendB (start []) = .next t) ∧ (∀ rt n, Instr.setendB ≠ .mtsr rt n) ∧
      (∀ rt u, Instr.setendB ≠ .mtusr rt u) ∧ writesD .setendB = false :=
  ⟨⟨_, rfl⟩, fun _ _ h => (by cases h), fun _ _ h => (by cases h), rfl⟩

/-- The two d registers of reset, and the last of three. -/
theorem test_hyp_DoubleWordProducts_SingleWordProducts :
    0 < (start []).params.nd ∧ 1 < (start []).params.nd ∧ 2 < ((start []).withSizes 3 2).params.nd := by decide

theorem test_hyp_UnsignedDivisionResult :
    (1 < (start [(2, 1)]).params.nd ∧ (start [(2, 1)]).reg 2 ≠ 0#32) ∧ (start [(2, 0xFFFFFFFF)]).reg 2 ≠ 0#32 ∧
      (start []).reg 2 = 0#32 := by
  decide

theorem test_hyp_SignedDivisionResult :
    let s := start [(1, 0x80000000), (2, 1)]
    1 < s.params.nd ∧ (s.reg 2 ≠ 0#32 ∧ ¬ (s.reg 1 = 0x80000000#32 ∧ s.reg 2 = 0xFFFFFFFF#32)) ∧ s.reg 3 = 0#32 ∧
      (start [(1, 0x80000000), (2, 0xFFFFFFFF)]).reg 1 = 0x80000000#32 ∧
      (start [(1, 0x80000000), (2, 0xFFFFFFFF)]).reg 2 = 0xFFFFFFFF#32 := by
  decide

theorem test_hyp_UndefinedDivisionsAreRefused :
    (1 < (start []).params.nd ∧ (start [(1, 0x80000000)]).reg 2 = 0#32) ∧
      (start [(1, 0x80000000), (2, 0xFFFFFFFF)]).reg 1 = 0x80000000#32 ∧
      (start [(1, 0x80000000), (2, 0xFFFFFFFF)]).reg 2 = 0xFFFFFFFF#32 := by
  decide

theorem test_hyp_RoundingsAgreeOnExactAndSameSign_exact : 2#32 ≠ 0#32 ∧ (2#32).toInt ∣ (0xFFFFFFF8#32).toInt := by decide

theorem test_hyp_RoundingsAgreeOnExactAndSameSign_same_sign :
    0x80000000#32 ≠ 0#32 ∧ (0xFFFFFFFF#32).msb = (0x80000000#32).msb := by
  decide

theorem test_hyp_UserSpecialRegisterMoves :
    let p := (start []).withSets.params
    p.usrTarget 0 = some (.half 0 .lo) ∧ p.usrTarget 3 = some (.half 1 .hi) ∧ p.usrTarget 9 = some .entry ∧
      p.usrTarget 4 = none ∧ p.usrTarget 1023 = none := by
  decide

theorem test_hyp_UserSpecialWriteThenRead :
    (launchParams.usrTarget 0).isSome = true ∧ (launchParams.usrTarget 3).isSome = true := by decide

theorem test_hyp_SystemRegisterMoves :
    let p := (start []).withSets.params
    (p.hasSr 5 = true ∧ 5 ≠ p.pswIndex ∧ p.srIsPlain 5 = true) ∧ (p.hasSr 6 = true ∧ 6 ≠ p.pswIndex ∧
      p.srIsPlain 6 = false) ∧ p.hasSr 7 = false ∧ p.hasSr 4 = false := by
  decide

theorem test_hyp_SystemRegisterMoves_psw :
    let p := { launchParams with pswBits := none }
    p.hasSr p.pswIndex = true ∧ (0x080 : SrIdx) = p.pswIndex ∧ p.pswBits = none := by
  decide

theorem test_hyp_PswThroughSystemRegisters :
    launchParams.hasSr launchParams.pswIndex = true ∧ launchParams.pswBits = some launchPswBits ∧
      [launchPswBits.be, launchPswBits.gie, launchPswBits.it, launchPswBits.dt].Nodup := by
  decide

theorem test_hyp_SystemRegisterReadsRepeat :
    (∃ t, exec (.mfsr 1 1023) (start []) = .next t) ∧ (5 : SrIdx) ≠ (start []).withSets.params.pswIndex ∧
      ∃ t, exec (.mtsr 1 5) (start []).withSets = .next t :=
  ⟨⟨_, rfl⟩, by decide, _, rfl⟩

theorem test_hyp_PcRelativeJumps :
    (start [] |>.setPc 0xFFFFFFFE).pc.toNat % 2 = 0 ∧ (start [] |>.setPc 1).pc.toNat % 2 = 1 := by decide

theorem test_hyp_RegisterJumps :
    ((start [(5, 0xFFFFFFFE)]).reg 5).toNat % 2 = 0 ∧ ((start [(5, 0xFFFFFFFF)]).reg 5).toNat % 2 = 1 := by decide

/-- Six operands of a branch: two equal registers, then 0, the least and the greatest signed value. -/
def branchRegs : State := start [(1, 7), (2, 7), (4, 0x80000000), (5, 0x7FFFFFFF)]

theorem test_hyp_ConditionalBranches_even :
    branchRegs.pc.toNat % 2 = 0 ∧ branchRegs.reg 1 = branchRegs.reg 2 ∧ branchRegs.reg 1 ≠ branchRegs.reg 3 := by
  decide

theorem test_hyp_ConditionalBranches_odd :
    let s := branchRegs.setPc 0xFFFFFFFF
    s.pc.toNat % 2 = 1 ∧ s.reg 1 = s.reg 2 ∧ s.reg 1 ≠ s.reg 3 ∧ (s.reg 3).toNat = 0 ∧ (s.reg 4).toNat ≠ 0 ∧
      0 ≤ (s.reg 3).toInt ∧ (s.reg 4).toInt < 0 ∧ 0 < (s.reg 5).toInt ∧ (s.reg 3).toInt ≤ 0 := by
  decide

theorem test_hyp_BranchesNotTakenNeverRaise :
    let s := branchRegs
    ¬ (s.reg 1 = s.reg 3) ∧ ¬ (s.reg 1 ≠ s.reg 2) ∧ ¬ ((s.reg 4).toNat = 0) ∧ ¬ ((s.reg 3).toNat ≠ 0) ∧
      ¬ (0 ≤ (s.reg 4).toInt) ∧ ¬ ((s.reg 3).toInt < 0) ∧ ¬ (0 < (s.reg 3).toInt) ∧ ¬ ((s.reg 5).toInt ≤ 0) := by
  decide

theorem test_hyp_BranchesNotTakenNeverRaise_linking :
    let s := branchRegs.setPc 0xFFFFFFFF
    ((4 : RegIdx) ≠ s.params.lpIndex ∧ ¬ (0 ≤ (s.reg 4).toInt)) ∧
      (3 : RegIdx) ≠ s.params.lpIndex ∧ ¬ ((s.reg 3).toInt < 0) := by
  decide

theorem test_hyp_LinkingBranches :
    let s := branchRegs
    let o := branchRegs.setPc 1
    ((3 : RegIdx) ≠ s.params.lpIndex ∧ s.pc.toNat % 2 = 0) ∧
      ((3 : RegIdx) ≠ o.params.lpIndex ∧ o.pc.toNat % 2 = 1 ∧ 0 ≤ (o.reg 3).toInt) ∧
      ((4 : RegIdx) ≠ o.params.lpIndex ∧ o.pc.toNat % 2 = 1 ∧ (o.reg 4).toInt < 0) ∧
      (30 : RegIdx) = s.params.lpIndex := by
  decide

/-- Bases at the top of the address space, and the two least offsets and indices. -/
def memRegs : State := start [(1, 0xFFFFFFFC), (2, 0xFFFFFFFE), (3, 0xFFFFFFFF), (4, 1)]

theorem test_hyp_ImmediateOffsetLoads :
    memRegs.Loads (memRegs.reg 1 + scaled (0 : BitVec 15) 2) 4 0xFFFFFFFC ∧
      memRegs.Loads (memRegs.reg 2 + scaled (0 : BitVec 15) 1) 2 0xFFFFFFFE ∧
      memRegs.Loads (memRegs.reg 3 + scaled (0 : BitVec 15) 0) 1 0xFFFFFFFF :=
  ⟨reaches_of (by decide), reaches_of (by decide), reaches_of (by decide)⟩

theorem test_hyp_PostIncrementLoadsImmediate :
    (0 : RegIdx) ≠ 1 ∧ memRegs.Loads (memRegs.reg 1) 4 0xFFFFFFFC ∧ memRegs.Loads (memRegs.reg 2) 2 0xFFFFFFFE ∧
      memRegs.Loads (memRegs.reg 3) 1 0xFFFFFFFF :=
  ⟨by decide, reaches_of (by decide), reaches_of (by decide), reaches_of (by decide)⟩

/-- The least and the greatest `sv` of two bits; for the statements on register offsets. -/
theorem test_hyp_RegisterOffset_sv : 0 < 2 ^ memRegs.params.svBits ∧ 3 < 2 ^ memRegs.params.svBits := by decide

theorem test_hyp_RegisterOffsetLoads :
    2 < 2 ^ memRegs.params.svBits ∧
      memRegs.Loads (memRegs.reg 1 + scaledIndex (memRegs.reg 4) 2) 4 0 ∧
      memRegs.Loads (memRegs.reg 2 + scaledIndex (memRegs.reg 4) 1) 2 0 ∧
      memRegs.Loads (memRegs.reg 3 + scaledIndex (memRegs.reg 4) 0) 1 0 :=
  ⟨by decide, reaches_of (by decide), reaches_of (by decide), reaches_of (by decide)⟩

theorem test_hyp_PostIncrementLoadsRegister :
    3 < 2 ^ memRegs.params.svBits ∧
      (0 : RegIdx) ≠ 1 ∧ (0 : RegIdx) ≠ 4 ∧ memRegs.Loads (memRegs.reg 1) 4 0xFFFFFFFC ∧
      memRegs.Loads (memRegs.reg 2) 2 0xFFFFFFFE ∧ memRegs.Loads (memRegs.reg 3) 1 0xFFFFFFFF :=
  ⟨by decide, by decide, by decide, reaches_of (by decide), reaches_of (by decide),
    reaches_of (by decide)⟩

theorem test_hyp_ImmediateOffsetStores :
    memRegs.Stores (memRegs.reg 1 + scaled (0 : BitVec 15) 2) 4 0xFFFFFFFC ∧
      memRegs.Stores (memRegs.reg 2 + scaled (0 : BitVec 15) 1) 2 0xFFFFFFFE ∧
      memRegs.Stores (memRegs.reg 3 + scaled (0 : BitVec 15) 0) 1 0xFFFFFFFF :=
  ⟨reaches_of (by decide), reaches_of (by decide), reaches_of (by decide)⟩

theorem test_hyp_ImmediateOffsetStores_RegisterOffsetStores_postIncrement :
    memRegs.Stores (memRegs.reg 1) 4 0xFFFFFFFC ∧ memRegs.Stores (memRegs.reg 2) 2 0xFFFFFFFE ∧
      memRegs.Stores (memRegs.reg 3) 1 0xFFFFFFFF :=
  ⟨reaches_of (by decide), reaches_of (by decide), reaches_of (by decide)⟩

theorem test_hyp_RegisterOffsetStores :
    2 < 2 ^ memRegs.params.svBits ∧
      memRegs.Stores (memRegs.reg 1 + scaledIndex (memRegs.reg 4) 2) 4 0 ∧
      memRegs.Stores (memRegs.reg 2 + scaledIndex (memRegs.reg 4) 1) 2 0 ∧
      memRegs.Stores (memRegs.reg 3 + scaledIndex (memRegs.reg 4) 0) 1 0 :=
  ⟨by decide, reaches_of (by decide), reaches_of (by decide), reaches_of (by decide)⟩

theorem test_hyp_MisalignedAccessesRaise :
    dataAccess (.lwi 0 2 0) memRegs = some (0xFFFFFFFE, 4) ∧ (Instr.lwi 0 2 0).wellFormed memRegs.params = true ∧
      overlapsLoad (.lwi 0 2 0) = false ∧
      (0xFFFFFFFE#32).toNat % 4 ≠ 0 ∧ dataAccess (.lbi 0 3 0) memRegs = some (0xFFFFFFFF, 1) := by
  decide

theorem test_hyp_UnallocatedAccessesRaise_translation :
    let s := memRegs.setPsw ⟨false, false, false, true⟩ |>.withTranslation [⟨.data, 0xFFFFFFFC, none⟩]
    dataAccess (.lwi 0 1 0) s = some (0xFFFFFFFC, 4) ∧ (Instr.lwi 0 1 0).wellFormed s.params = true ∧
      overlapsLoad (.lwi 0 1 0) = false ∧
      (0xFFFFFFFC#32).toNat % 4 = 0 ∧ s.translate .data 0xFFFFFFFC = none := by
  decide

theorem test_hyp_UnallocatedAccessesRaise_allocation :
    let s := memRegs.withRegions [⟨0xFFFFFFFC, 0xFFFFFFFE, .data⟩, ⟨0xFFFFFFFF, 0xFFFFFFFF, .text⟩]
    dataAccess (.swi 0 1 0) s = some (0xFFFFFFFC, 4) ∧ (Instr.swi 0 1 0).wellFormed s.params = true ∧
      overlapsLoad (.swi 0 1 0) = false ∧
      (0xFFFFFFFC#32).toNat % 4 = 0 ∧ s.translate .data 0xFFFFFFFC = some 0xFFFFFFFC ∧
      s.admits (.swi 0 1 0) (0xFFFFFFFC#32 + BitVec.ofNat 32 3).toNat = false ∧
      ∀ j < 3, s.admits (.swi 0 1 0) (0xFFFFFFFC#32 + BitVec.ofNat 32 j).toNat = true := by
  decide

theorem test_hyp_OverlappingOperandsAreRefused :
    3 < 2 ^ memRegs.params.svBits ∧
      (0 : RegIdx) ≠ 1 ∧ memRegs.Loads (memRegs.reg 1) 4 0xFFFFFFFC ∧ memRegs.Loads (memRegs.reg 2) 2 0xFFFFFFFE ∧
      memRegs.Loads (memRegs.reg 3) 1 0xFFFFFFFF :=
  ⟨by decide, by decide, reaches_of (by decide), reaches_of (by decide), reaches_of (by decide)⟩

theorem test_hyp_StoredWordReadBack :
    (memRegs.Stores (memRegs.reg 1 + scaled (0 : BitVec 15) 2) 4 0xFFFFFFFC ∧ memRegs.psw.be = false) ∧
      memRegs.withBe.Stores (memRegs.withBe.reg 1 + scaled (0 : BitVec 15) 2) 4 0xFFFFFFFC ∧
      memRegs.withBe.psw.be = true :=
  ⟨⟨reaches_of (by decide), by decide⟩, reaches_of (by decide), by decide⟩

theorem test_hyp_TranslationOffReturns :
    ((start [(5, 0)]).reg 5).toNat % 2 = 0 ∧ ((start [(5, 1)]).reg 5).toNat % 2 = 1 := by decide

theorem test_hyp_ConditionalTraps :
    ((start []).withTrapOperands.params.trapOperands = .fixed ∧ (start []).withTrapOperands.reg 4 = 0#32) ∧
      ((start [(4, 0x80000000)]).withTrapOperands.params.trapOperands = .fixed ∧
        (start [(4, 0x80000000)]).withTrapOperands.reg 4 ≠ 0#32) ∧
      (start []).params.trapOperands = .notFixed := by
  decide

theorem test_hyp_EventInstructionsEndTheStep :
    (start []).withTrapOperands.params.trapOperands = .fixed ∧ (start []).params.trapOperands = .notFixed := by
  decide

end Sys2Proof.Tests
end

/-! PROOFS. What a completed instruction has done, said once: which instruction may write what, and where `pc` goes. The
statements about what is left unchanged, and the invariant of the machine, follow from it. -/

namespace Sys2Proof.Machine

/-- What an instruction may write outside the general registers and `pc`, each with what the instruction must be. -/
inductive Writes (i : Instr) (s : State) : State → Prop where
  | nothing : Writes i s s
  /-- one of the `ND` d registers, whole or a half of it (R34, R231, R236) -/
  | dreg {k : Nat} {v : DWord} (hi : writesD i = true) (hk : k < s.params.nd) : Writes i s (s.setDreg k v)
  /-- an opaque entry of `USReg[ ]` (R36) -/
  | usrEntry {rt : RegIdx} {u : UsrIdx} {v : Word} (hi : i = .mtusr rt u) : Writes i s (s.setUsrEntry u v)
  /-- an entry of `SR[ ]` (R29) -/
  | sysReg {rt : RegIdx} {n : SrIdx} {v : Word} (hi : i = .mtsr rt n) : Writes i s (s.setSysReg n v)
  /-- the PSW word (R111), with what stands in its unnamed bits -/
  | pswWord {rt : RegIdx} {n : SrIdx} {p : Psw} {e : Nat} (hi : i = .mtsr rt n) :
      Writes i s { s.setPsw p with pswEpoch := e }
  /-- fields of PSW, with neither translation turned on (R33) -/
  | mode {p : Psw} (hi : writesPsw i = true) (hit : p.it = true → s.psw.it = true)
      (hdt : p.dt = true → s.psw.dt = true) : Writes i s (s.setPsw p)
  /-- the bytes of the one data access (R52, R57) -/
  | store {sz : Size} {a p v : Word} (hi : isStore i = true) (ha : dataAccess i s = some (a, sizeBytes sz))
      (hp : s.translate .data a = some p) : Writes i s (s.storeBytes p sz v)

/-- Where `pc` goes in a completed step: to the next sequential address (R26), or to an even target (R27, R177). -/
def NextPc (a b : Word) : Prop := b = a + 4#32 ∨ b.getLsbD 0 = false

/-- `t` is `s` after a completed `i`: general registers and `pc` aside, only what `i` may write has changed. -/
def Completes (i : Instr) (s t : State) : Prop :=
  ∃ u g q, Writes i s u ∧ NextPc s.pc q ∧ t = { u with gpr := g, pc := q }

/-- `pc` stays even (R27). -/
theorem NextPc.even {a b : Word} (h : NextPc a b) (ha : a.toNat % 2 = 0) : b.toNat % 2 = 0 := by
  rcases h with rfl | hb
  · rw [BitVec.toNat_add]
    simp only [BitVec.toNat_ofNat]
    omega
  · rw [getLsbD_zero_eq] at hb
    simpa using hb

/-! ### The shared shapes -/

section
variable {i : Instr} {s t : State}

/-- Whatever was written, the instruction advances. -/
theorem Writes.completes_advance {u : State} (h : Writes i s u) (hpc : u.pc = s.pc) : Completes i s u.advance :=
  ⟨u, u.gpr, u.pc + 4#32, h, .inl (by rw [hpc]), rfl⟩

theorem completes_writeReg {rt : RegIdx} {v : Word} (h : writeReg rt v s = .next t) : Completes i s t := by
  cases h
  exact ⟨s, _, _, .nothing, .inl rfl, rfl⟩

theorem completes_advance (h : (.next s.advance : Out) = .next t) : Completes i s t := by
  cases h
  exact Writes.nothing.completes_advance rfl

theorem completes_moveIf {c : Bool} {rt : RegIdx} {v : Word} (h : moveIf c rt v s = .next t) : Completes i s t := by
  unfold moveIf at h
  split at h
  · exact completes_writeReg h
  · exact completes_advance h

theorem completes_writeDreg {k : Nat} {v : DWord} (hi : writesD i = true) (hk : k < s.params.nd)
    (h : writeDreg k v s = .next t) : Completes i s t := by
  cases h
  exact (Writes.dreg hi hk).completes_advance rfl

theorem completes_loadAt {sz : Size} {sg : Bool} {rt : RegIdx} {a : Word} (h : loadAt sz sg rt a s = .next t) :
    Completes i s t := by
  obtain ⟨v, -, rfl⟩ := loadAt_next h
  exact completes_writeReg rfl

theorem completes_loadPost {sz : Size} {sg : Bool} {rt ra : RegIdx} {inc : Word}
    (h : loadPost sz sg rt ra inc s = .next t) : Completes i s t := by
  obtain ⟨v, -, rfl⟩ := loadPost_next h
  exact ⟨s, _, _, .nothing, .inl rfl, rfl⟩

theorem completes_loadPostImm {sz : Size} {sg : Bool} {rt ra : RegIdx} {inc : Word}
    (h : loadPostImm sz sg rt ra inc s = .next t) : Completes i s t :=
  completes_loadPost (loadPostImm_next h).2

theorem completes_loadPostReg {sz : Size} {sg : Bool} {rt ra rb : RegIdx} {inc : Word}
    (h : loadPostReg sz sg rt ra rb inc s = .next t) : Completes i s t := by
  obtain ⟨-, -, hload⟩ := loadPostReg_next h
  exact completes_loadPost hload

theorem completes_storeAt {sz : Size} {rt : RegIdx} {a : Word} (hi : isStore i = true)
    (ha : dataAccess i s = some (a, sizeBytes sz)) (h : storeAt sz rt a s = .next t) : Completes i s t := by
  obtain ⟨p, ⟨-, hp, -⟩, rfl⟩ := storeAt_next h
  exact (Writes.store hi ha hp).completes_advance rfl

theorem completes_storePost {sz : Size} {rt ra : RegIdx} {inc : Word} (hi : isStore i = true)
    (ha : dataAccess i s = some (s.reg ra, sizeBytes sz)) (h : storePost sz rt ra inc s = .next t) :
    Completes i s t := by
  obtain ⟨p, ⟨-, hp, -⟩, rfl⟩ := storePost_next h
  exact ⟨_, _, _, .store hi ha hp, .inl rfl, rfl⟩

/-- A transfer with registers written: none, or the link. -/
theorem completes_transferTo {a : Word} {u : State} {g : Vector Word 32} (hu : Writes i s u)
    (h : transferTo a { u with gpr := g } = .next t) : Completes i s t := by
  obtain ⟨heven, rfl⟩ := transferTo_next h
  exact ⟨u, g, a, hu, .inr heven, rfl⟩

/-- A mode change that turns no translation on. -/
theorem completes_setMode {p : Psw} (h : (.next (s.setPsw p).advance : Out) = .next t) (hi : writesPsw i = true)
    (hit : p.it = true → s.psw.it = true) (hdt : p.dt = true → s.psw.dt = true) : Completes i s t := by
  cases h
  exact (Writes.mode hi hit hdt).completes_advance rfl

/-- A transfer with a mode change that turns no translation on. -/
theorem completes_returnMode {a : Word} {p : Psw} (h : transferTo a (s.setPsw p) = .next t) (hi : writesPsw i = true)
    (hit : p.it = true → s.psw.it = true) (hdt : p.dt = true → s.psw.dt = true) : Completes i s t :=
  completes_transferTo (.mode hi hit hdt) h

theorem completes_branchIf {w : Nat} {c : Bool} {imm : BitVec w} (h : branchIf c imm s = .next t) :
    Completes i s t := by
  rcases branchIf_next h with ⟨-, heven, rfl⟩ | ⟨-, rfl⟩
  · exact ⟨s, _, _, .nothing, .inr heven, rfl⟩
  · exact completes_advance rfl

theorem completes_branchLinkIf {c : Bool} {rt : RegIdx} {imm : BitVec 16} (h : branchLinkIf c rt imm s = .next t) :
    Completes i s t := by
  obtain ⟨-, ⟨-, heven, rfl⟩ | ⟨-, rfl⟩⟩ := branchLinkIf_next h
  · exact ⟨s, _, _, .nothing, .inr heven, rfl⟩
  · exact completes_writeReg rfl

theorem completes_trapIf {which : UnmodelledCase} {c : Bool} {swid : BitVec 15} (h : trapIf which c swid s = .next t) :
    Completes i s t := by
  obtain ⟨-, -, rfl⟩ := trapIf_next.mp h
  exact completes_advance rfl

/-! ### The instructions with a shape of their own -/

theorem execMfsr_completes {rt : RegIdx} {n : SrIdx} (h : execMfsr rt n s = .next t) : Completes i s t := by
  obtain ⟨-, h⟩ := ifWellFormed_next h
  split at h
  · unfold readPsw at h
    split at h
    · cases h
    · exact completes_writeReg h
  · exact completes_writeReg h

theorem execMtsr_completes {rt : RegIdx} {n : SrIdx} (h : execMtsr rt n s = .next t) :
    Completes (.mtsr rt n) s t := by
  obtain ⟨-, h⟩ := ifWellFormed_next h
  split at h
  · unfold writePsw at h
    split at h
    · cases h
    · cases h
      exact (Writes.pswWord rfl).completes_advance rfl
  · split at h
    · cases h
      exact (Writes.sysReg rfl).completes_advance rfl
    · cases h

theorem execMfusr_completes {rt : RegIdx} {u : UsrIdx} (h : execMfusr rt u s = .next t) : Completes i s t := by
  unfold execMfusr at h
  split at h
  · cases h
  · exact completes_writeReg h

theorem execMtusr_completes {rt : RegIdx} {u : UsrIdx} (h : execMtusr rt u s = .next t) :
    Completes (.mtusr rt u) s t := by
  unfold execMtusr at h
  split at h
  · cases h
  · next target htarget =>
    cases h
    match target, htarget with
    | .half k .lo, htarget => exact (Writes.dreg rfl (usrTarget_half htarget)).completes_advance rfl
    | .half k .hi, htarget => exact (Writes.dreg rfl (usrTarget_half htarget)).completes_advance rfl
    | .entry, _ => exact (Writes.usrEntry rfl).completes_advance rfl

/-- A d register result of a well-formed instruction: its index is below `ND` (R34). -/
theorem completes_dregResult {k : Nat} {v : DWord} (hi : writesD i = true)
    (hwf : i.wellFormed s.params = decide (k < s.params.nd)) (h : ifWellFormed i s (writeDreg k v s) = .next t) :
    Completes i s t := by
  obtain ⟨hk, h⟩ := ifWellFormed_next h
  exact completes_writeDreg hi (of_decide_eq_true (hwf ▸ hk)) h

theorem execDiv_completes {k : Nat} {ra rb : RegIdx} (h : execDiv k ra rb s = .next t) :
    Completes (.div k ra rb) s t := by
  obtain ⟨hk, h⟩ := ifWellFormed_next h
  split at h
  · cases h
  · exact completes_writeDreg rfl (of_decide_eq_true hk) h

theorem execDivs_completes {k : Nat} {ra rb : RegIdx} (h : execDivs k ra rb s = .next t) :
    Completes (.divs k ra rb) s t := by
  obtain ⟨hk, h⟩ := ifWellFormed_next h
  split at h
  · cases h
  · split at h
    · cases h
    · exact completes_writeDreg rfl (of_decide_eq_true hk) h

end

/-! ### Every instruction -/

/-- What an instruction that completes has done. -/
theorem exec_completes {i : Instr} {s t : State} (h : exec i s = .next t) : Completes i s t := by
  cases i with
  | mfsr => exact execMfsr_completes h
  | mtsr => exact execMtsr_completes h
  | lwi | lhi | lhsi | lbi | lbsi => exact completes_loadAt h
  | lwiBi | lhiBi | lhsiBi | lbiBi | lbsiBi => exact completes_loadPostImm h
  | swi | shi | sbi => exact completes_storeAt rfl rfl h
  | swiBi | shiBi | sbiBi => exact completes_storePost rfl rfl h
  | lw | lh | lhs | lb | lbs => exact completes_loadAt (ifWellFormed_next h).2
  | lwBi | lhBi | lhsBi | lbBi | lbsBi => exact completes_loadPostReg (ifWellFormed_next h).2
  | sw | sh | sb => exact completes_storeAt rfl rfl (ifWellFormed_next h).2
  | swBi | shBi | sbBi => exact completes_storePost rfl rfl (ifWellFormed_next h).2
  | j | jal | jr | ret | jral | jralLp => exact completes_transferTo .nothing h
  | beq | bne | beqz | bnez | bgez | bltz | bgtz | blez => exact completes_branchIf h
  | bgezal | bltzal => exact completes_branchLinkIf h
  | addi | subri | andi | ori | xori | slti | sltsi | movi | sethi | add | sub | and | nor | or | xor | slt | slts
  | sva | svs | seb | seh | zeb | zeh | wsbh | slli | srli | srai | rotri | sll | srl | sra | rotr | mul =>
    exact completes_writeReg h
  | mults64 | mult64 | madds64 | madd64 | msubs64 | msub64 | mult32 | madd32 | msub32 =>
    exact completes_dregResult rfl rfl h
  | mfusr => exact execMfusr_completes h
  | mtusr => exact execMtusr_completes h
  | div => exact execDiv_completes h
  | divs => exact execDivs_completes h
  | cmovz | cmovn => exact completes_moveIf h
  | dsb | isb => exact completes_advance h
  | teqz | tnez => exact completes_trapIf h
  | brk | syscall | trap | iret | cctl | standby => cases h
  | retItoff => exact completes_returnMode h rfl nofun id
  | retToff => exact completes_returnMode h rfl nofun nofun
  | setendB | setendL | setgieE | setgieD => exact completes_setMode h rfl id id

/-! ### The statements that follow -/

/-- What an instruction may write keeps the canonical forms (R34, R38). -/
theorem Writes.keeps_canonical {i : Instr} {s u : State} (h : Writes i s u) (hs : s.Inv) :
    u.params = s.params ∧ Memory.wf u.mem ∧ sparseWf 1024 u.sr ∧ sparseWf 1024 u.usr ∧ sparseWf s.params.nd u.d := by
  obtain ⟨hmem, hsr, husr, hd, -⟩ := hs
  cases h with
  | nothing | pswWord | mode => exact ⟨rfl, hmem, hsr, husr, hd⟩
  | dreg _ hk => exact ⟨rfl, hmem, hsr, husr, State.setDreg_wf hd hk _⟩
  | usrEntry => exact ⟨rfl, hmem, hsr, State.setUsrEntry_wf husr _ _, hd⟩
  | sysReg => exact ⟨rfl, hmem, State.setSysReg_wf hsr _ _, husr, hd⟩
  | store => exact ⟨rfl, State.storeBytes_wf hmem _ _ _, hsr, husr, hd⟩

/-- A completed instruction keeps the invariant. -/
theorem Completes.inv {i : Instr} {s t : State} (h : Completes i s t) (hs : s.Inv) : t.Inv := by
  obtain ⟨u, g, q, hw, hq, rfl⟩ := h
  obtain ⟨hparams, hmem, hsr, husr, hd⟩ := hw.keeps_canonical hs
  obtain ⟨-, -, -, -, hpc, hnd, hsv⟩ := hs
  rw [← hparams] at hd hnd hsv
  exact ⟨hmem, hsr, husr, hd, hq.even hpc, hnd, hsv⟩

/-- Settles O2: a completed step is a completed instruction, and that keeps the invariant. -/
theorem everyStepKeepsTheInvariant : Obligations.EveryStepKeepsTheInvariant := by
  intro s t hs hstep
  obtain ⟨-, i, -, hexec⟩ := step_next hstep
  exact (exec_completes hexec).inv hs

/-- Settles O11: the one write that changes memory is the store's, at its translated address. -/
theorem memoryChangesOnlyAtAStoresBytes : Obligations.MemoryChangesOnlyAtAStoresBytes := by
  intro i s t h
  obtain ⟨u, g, q, hw, -, rfl⟩ := exec_completes h
  cases hw with
  | nothing | dreg | usrEntry | sysReg | pswWord | mode => exact ⟨fun _ => rfl, fun _ _ _ _ _ _ _ _ => rfl⟩
  | store hi ha hp =>
    refine ⟨fun hno => absurd hi (by rw [hno]; decide), fun _ a n p ha' hp' b hb => ?_⟩
    obtain ⟨rfl, rfl⟩ : _ = a ∧ _ = n := by simpa [ha] using ha'
    obtain rfl : _ = p := Option.some.inj (hp.symm.trans hp')
    exact State.byteAt_storeBytes_other s _ _ _ hb

/-- Settles O12: the two writes of PSW are those of `mtsr` and of the mode changes. -/
theorem pswChangesOnlyByItsInstructions : Obligations.PswChangesOnlyByItsInstructions := by
  intro i s t hno h
  obtain ⟨u, g, q, hw, -, rfl⟩ := exec_completes h
  cases hw with
  | nothing | dreg | usrEntry | sysReg | store => exact ⟨rfl, rfl⟩
  | pswWord hi => subst hi; cases hno
  | mode hi => rw [hi] at hno; cases hno

/-- No instruction but `mtsr` turns a translation on. -/
theorem Completes.translation {i : Instr} {s t : State} (h : Completes i s t) (hi : ∀ rt n, i ≠ .mtsr rt n) :
    (t.psw.it = true → s.psw.it = true) ∧ (t.psw.dt = true → s.psw.dt = true) := by
  obtain ⟨u, g, q, hw, -, rfl⟩ := h
  cases hw with
  | nothing | dreg | usrEntry | sysReg | store => exact ⟨id, id⟩
  | pswWord hmtsr => exact absurd hmtsr (hi _ _)
  | mode _ hit hdt => exact ⟨hit, hdt⟩

/-- Settles O13: the two returns by the state they leave, the others by what each may write. -/
theorem translationIsTurnedOnOnlyByMtsr : Obligations.TranslationIsTurnedOnOnlyByMtsr := by
  refine ⟨fun rb s t h => ?_, fun rb s t h => ?_, fun i s t hi h => (exec_completes h).translation hi⟩
  · obtain ⟨-, rfl⟩ := transferTo_next h
    exact ⟨rfl, rfl⟩
  · obtain ⟨-, rfl⟩ := transferTo_next h
    exact ⟨rfl, rfl⟩

/-- Settles O15, by what each instruction may write. -/
theorem specialFilesChangeOnlyByTheirInstructions : Obligations.SpecialFilesChangeOnlyByTheirInstructions := by
  intro i s t h
  obtain ⟨u, g, q, hw, -, rfl⟩ := exec_completes h
  cases hw with
  | nothing | pswWord | mode | store => exact ⟨fun _ => rfl, fun _ => rfl, fun _ _ _ => rfl, rfl, rfl⟩
  | dreg hi => exact ⟨fun _ => rfl, fun _ => rfl, fun hno => absurd hi (by rw [hno]; decide), rfl, rfl⟩
  | usrEntry hi => exact ⟨fun _ => rfl, fun hno => absurd hi (hno _ _), fun _ _ _ => rfl, rfl, rfl⟩
  | sysReg hi => exact ⟨fun hno => absurd hi (hno _ _), fun _ => rfl, fun _ _ _ => rfl, rfl, rfl⟩

/-- Settles O1: every map of the reset state is empty. -/
theorem resetStateIsWellFormed : Obligations.ResetStateIsWellFormed :=
  ⟨reset_mem_wf, sparseWf_nil _, sparseWf_nil _, sparseWf_nil _, rfl, by decide, by decide⟩

end Sys2Proof.Machine

/-! PROOFS. Special registers: a user special register read back after a write (R230, R231), and PSW as a word
(R111). -/

namespace Sys2Proof.Machine

/-! ### User special registers -/

@[simp] theorem State.usrWrite_params (s : State) (u : UsrIdx) (v : Word) (target : UsrTarget) :
    (s.usrWrite u v target).params = s.params := by
  match target with
  | .half _ .lo | .half _ .hi | .entry => rfl

/-- A read of what was just written; where it is a half of a d register, the other half is no matter (R37). -/
@[simp] theorem State.usrRead_usrWrite (s : State) (u : UsrIdx) (v : Word) (target : UsrTarget) :
    (s.usrWrite u v target).usrRead u target = v := by
  match target with
  | .half k .lo => simp [State.usrWrite, State.usrRead, State.dreg_setDlo]
  | .half k .hi => simp [State.usrWrite, State.usrRead, State.dreg_setDhi]
  | .entry => simp [State.usrWrite, State.usrRead, State.usrEntry_setUsrEntry]

/-- `pc` is no matter to a read of `USReg[ ]`. -/
@[simp] theorem State.usrRead_advance (s : State) (u : UsrIdx) (target : UsrTarget) :
    s.advance.usrRead u target = s.usrRead u target := by
  match target with
  | .half _ .lo | .half _ .hi | .entry => rfl

theorem exec_mfusr {s : State} {u : UsrIdx} {target : UsrTarget} (h : s.params.usrTarget u = some target)
    (rt : RegIdx) : exec (.mfusr rt u) s = writeReg rt (s.usrRead u target) s := by
  change execMfusr rt u s = _
  unfold execMfusr
  rw [h]

theorem exec_mtusr {s : State} {u : UsrIdx} {target : UsrTarget} (h : s.params.usrTarget u = some target)
    (rt : RegIdx) : exec (.mtusr rt u) s = .next (s.usrWrite u (s.reg rt) target).advance := by
  change execMtusr rt u s = _
  unfold execMtusr
  rw [h]

/-- Settles O35: the write leaves the parameters alone, so the read names the same target. -/
theorem userSpecialWriteThenRead : Obligations.UserSpecialWriteThenRead := by
  intro s rt rt' u hsome
  obtain ⟨target, htarget⟩ := Option.isSome_iff_exists.mp hsome
  refine ⟨_, _, exec_mtusr htarget rt, exec_mfusr (target := target) (by simpa using htarget) rt', ?_⟩
  simp

/-! ### PSW as a word -/

/-- The bits of a word with one bit put: that bit at its place, the others as they were. -/
theorem getLsbD_putBit (w : Word) (n m : Fin 32) (b : Bool) :
    (putBit w n b).getLsbD m.val = if m = n then b else w.getLsbD m.val := by
  have hbit : (1#32 <<< n.val).getLsbD m.val = decide (m = n) := by
    rw [BitVec.getLsbD_shiftLeft, BitVec.getLsbD_one, Bool.eq_iff_iff]
    simp only [Bool.and_eq_true, Bool.not_eq_true', decide_eq_true_eq, decide_eq_false_iff_not, Fin.ext_iff]
    omega
  have hm : decide (m.val < 32) = true := decide_eq_true m.isLt
  have hput : (putBit w n b).getLsbD m.val =
      if b then w.getLsbD m.val || decide (m = n) else w.getLsbD m.val && !decide (m = n) := by
    cases b
    · simp only [putBit, Bool.false_eq_true, if_false, BitVec.getLsbD_and, BitVec.getLsbD_not, hbit, hm, Bool.true_and]
    · simp only [putBit, if_true, BitVec.getLsbD_or, hbit]
  rw [hput]
  by_cases h : m = n <;> cases b <;> simp [h]

/-- The word of PSW has each named field at its place, where the four places are distinct (R111). -/
theorem unpackPsw_packPsw {l : PswBits} (h : [l.be, l.gie, l.it, l.dt].Nodup) (p : Psw) (rest : Word) :
    unpackPsw l (packPsw l p rest) = p := by
  simp only [List.nodup_cons, List.mem_cons, List.not_mem_nil, or_false, not_or] at h
  obtain ⟨⟨hbg, hbi, hbd⟩, ⟨hgi, hgd⟩, hid, -⟩ := h
  simp only [unpackPsw, packPsw, getLsbD_putBit, hbg, hbi, hbd, hgi, hgd, hid, if_true, if_false]

theorem exec_mfsr_psw {s : State} {l : PswBits} (hsr : s.params.hasSr s.params.pswIndex = true)
    (hl : s.params.pswBits = some l) (rt : RegIdx) : exec (.mfsr rt s.params.pswIndex) s =
      writeReg rt (packPsw l s.psw (Config.freePswBits s.pswEpoch)) s := by
  have hread : readPsw rt s = writeReg rt (packPsw l s.psw (Config.freePswBits s.pswEpoch)) s := by
    unfold readPsw; rw [hl]
  exact (ifWellFormed_true (i := .mfsr rt _) hsr _).trans ((if_pos rfl).trans hread)

theorem exec_mtsr_psw {s : State} {l : PswBits} (hsr : s.params.hasSr s.params.pswIndex = true)
    (hl : s.params.pswBits = some l) (rt : RegIdx) : exec (.mtsr rt s.params.pswIndex) s =
      .next { s.setPsw (unpackPsw l (s.reg rt)) with pswEpoch := s.pswEpoch + 1 }.advance := by
  have hwrite : writePsw (s.reg rt) s =
      .next { s.setPsw (unpackPsw l (s.reg rt)) with pswEpoch := s.pswEpoch + 1 }.advance := by
    unfold writePsw; rw [hl]
  exact (ifWellFormed_true (i := .mtsr rt _) hsr _).trans ((if_pos rfl).trans hwrite)

/-- Settles O37: reading packs the fields into the word, and writing unpacks them. -/
theorem pswThroughSystemRegisters : Obligations.PswThroughSystemRegisters := by
  intro s rt l hsr hl hnodup
  rw [exec_mfsr_psw hsr hl, exec_mtsr_psw hsr hl]
  refine ⟨writeReg_frame ?_, _, rfl, rfl, rfl, rfl, rfl, rfl, fun _ _ => rfl, fun _ _ => rfl, fun _ => rfl,
    rfl, rfl, rfl, rfl, rfl⟩
  have hpack := unpackPsw_packPsw hnodup s.psw (Config.freePswBits s.pswEpoch)
  exact ⟨congrArg Psw.be hpack, congrArg Psw.gie hpack, congrArg Psw.it hpack, congrArg Psw.dt hpack⟩

end Sys2Proof.Machine

/-! PROOFS. `PSW.GIE` is read by `mfsr` alone (R32): every other instruction, run with it set either way, has the same
outcome but for that bit. -/

namespace Sys2Proof.Machine

@[simp] theorem State.withGie_reg (s : State) (g : Bool) (r : RegIdx) : (s.withGie g).reg r = s.reg r := rfl
@[simp] theorem State.withGie_params (s : State) (g : Bool) : (s.withGie g).params = s.params := rfl

/-- A data access passes the same checks and reads the same value: they ask `PSW.DT` and `PSW.BE` alone. -/
@[simp] theorem State.withGie_memRead (s : State) (g : Bool) (a : Word) (sz : Size) :
    (s.withGie g).memRead a sz = s.memRead a sz := rfl

/-- The same kind of outcome, and the same next state but for `PSW.GIE`. -/
def SameButGie (o o' : Out) : Prop := ∀ g : Bool, mapNext (State.withGie g) o = mapNext (State.withGie g) o'

theorem SameButGie.refl (o : Out) : SameButGie o o := fun _ => rfl

theorem SameButGie.next {t u : State} (h : ∀ g, t.withGie g = u.withGie g) : SameButGie (.next t) (.next u) :=
  fun g => congrArg Host.Outcome.next (h g)

theorem SameButGie.ite {c : Prop} [Decidable c] {a a' b b' : Out} (ha : SameButGie a a') (hb : SameButGie b b') :
    SameButGie (if c then a else b) (if c then a' else b') := by
  split
  · exact ha
  · exact hb

/-! ### The shared shapes, in a state and in the same with `PSW.GIE` set -/

section
variable {s : State} {g : Bool}

theorem ifWellFormed_withGie {i : Instr} {o o' : Out} (h : SameButGie o o') :
    SameButGie (ifWellFormed i (s.withGie g) o) (ifWellFormed i s o') := .ite h (.refl _)

theorem writeReg_withGie {rt : RegIdx} {v : Word} : SameButGie (writeReg rt v (s.withGie g)) (writeReg rt v s) :=
  .next fun _ => rfl

theorem advance_withGie : SameButGie (.next (s.withGie g).advance) (.next s.advance) := .next fun _ => rfl

theorem writeDreg_withGie {k : Nat} {v : DWord} : SameButGie (writeDreg k v (s.withGie g)) (writeDreg k v s) :=
  .next fun _ => rfl

theorem writeDlo_withGie {k : Nat} {v : Word} : SameButGie (writeDlo k v (s.withGie g)) (writeDlo k v s) :=
  .next fun _ => rfl

theorem moveIf_withGie {c : Bool} {rt : RegIdx} {v : Word} :
    SameButGie (moveIf c rt v (s.withGie g)) (moveIf c rt v s) :=
  .ite writeReg_withGie advance_withGie

theorem loadAt_withGie {sz : Size} {sg : Bool} {rt : RegIdx} {a : Word} :
    SameButGie (loadAt sz sg rt a (s.withGie g)) (loadAt sz sg rt a s) := by
  unfold loadAt
  rw [State.withGie_memRead]
  cases s.memRead a sz with
  | error f => exact .refl _
  | ok v => exact .next fun _ => rfl

theorem loadPost_withGie {sz : Size} {sg : Bool} {rt ra : RegIdx} {inc : Word} :
    SameButGie (loadPost sz sg rt ra inc (s.withGie g)) (loadPost sz sg rt ra inc s) := by
  unfold loadPost
  rw [State.withGie_reg, State.withGie_memRead]
  cases s.memRead (s.reg ra) sz with
  | error f => exact .refl _
  | ok v => exact .next fun _ => rfl

theorem loadPostImm_withGie {sz : Size} {sg : Bool} {rt ra : RegIdx} {inc : Word} :
    SameButGie (loadPostImm sz sg rt ra inc (s.withGie g)) (loadPostImm sz sg rt ra inc s) :=
  .ite (.refl _) loadPost_withGie

theorem loadPostReg_withGie {sz : Size} {sg : Bool} {rt ra rb : RegIdx} {inc : Word} :
    SameButGie (loadPostReg sz sg rt ra rb inc (s.withGie g)) (loadPostReg sz sg rt ra rb inc s) :=
  .ite (.refl _) (.ite (.refl _) loadPost_withGie)

/-- A write completes in both states or raises the same fault in both. -/
theorem memWrite_withGie_cases (a : Word) (sz : Size) (v : Word) :
    (∃ p, (s.withGie g).memWrite a sz v = .ok ((s.storeBytes p sz v).withGie g) ∧
      s.memWrite a sz v = .ok (s.storeBytes p sz v)) ∨
    ∃ f, (s.withGie g).memWrite a sz v = .error f ∧ s.memWrite a sz v = .error f := by
  have hcheck : (s.withGie g).checkData (s.withGie g).storable a sz = s.checkData s.storable a sz := rfl
  unfold State.memWrite
  rw [hcheck]
  cases s.checkData s.storable a sz with
  | error f => exact .inr ⟨f, rfl, rfl⟩
  | ok p => exact .inl ⟨p, rfl, rfl⟩

theorem storeAt_withGie {sz : Size} {rt : RegIdx} {a : Word} :
    SameButGie (storeAt sz rt a (s.withGie g)) (storeAt sz rt a s) := by
  unfold storeAt
  rw [State.withGie_reg]
  obtain ⟨p, hg, hs⟩ | ⟨f, hg, hs⟩ := memWrite_withGie_cases (s := s) (g := g) a sz (s.reg rt) <;> rw [hg, hs]
  · exact advance_withGie
  · exact .refl _

theorem storePost_withGie {sz : Size} {rt ra : RegIdx} {inc : Word} :
    SameButGie (storePost sz rt ra inc (s.withGie g)) (storePost sz rt ra inc s) := by
  unfold storePost
  rw [State.withGie_reg, State.withGie_reg]
  obtain ⟨p, hg, hs⟩ | ⟨f, hg, hs⟩ := memWrite_withGie_cases (s := s) (g := g) (s.reg ra) sz (s.reg rt) <;> rw [hg, hs]
  · exact writeReg_withGie
  · exact .refl _

/-- A transfer, with whatever else the instruction writes. -/
theorem transferTo_sameButGie (a : Word) {t u : State} (h : ∀ g, t.withGie g = u.withGie g) :
    SameButGie (transferTo a t) (transferTo a u) :=
  .ite (.refl _) (.next fun g => congrArg (State.setPc · a) (h g))

theorem branchIf_withGie {w : Nat} {c : Bool} {imm : BitVec w} :
    SameButGie (branchIf c imm (s.withGie g)) (branchIf c imm s) :=
  .ite (transferTo_sameButGie _ fun _ => rfl) advance_withGie

theorem branchLinkIf_withGie {c : Bool} {rt : RegIdx} {imm : BitVec 16} :
    SameButGie (branchLinkIf c rt imm (s.withGie g)) (branchLinkIf c rt imm s) :=
  .ite (.refl _) (.ite (transferTo_sameButGie _ fun _ => rfl) writeReg_withGie)

theorem trapIf_withGie {which : UnmodelledCase} {c : Bool} {swid : BitVec 15} :
    SameButGie (trapIf which c swid (s.withGie g)) (trapIf which c swid s) := by
  unfold trapIf
  rw [State.withGie_params]
  cases s.params.trapOperands with
  | notFixed => exact .refl _
  | fixed => exact .ite (.refl _) advance_withGie

/-! ### The instructions with a shape of their own -/

/-- At `PSW_INDEX` all of PSW is written, `PSW.GIE` too (R111). -/
theorem execMtsr_withGie {rt : RegIdx} {n : SrIdx} : SameButGie (execMtsr rt n (s.withGie g)) (execMtsr rt n s) :=
  ifWellFormed_withGie <| .ite (.refl _) <| .ite (.next fun _ => rfl) (.refl _)

theorem execMfusr_withGie {rt : RegIdx} {u : UsrIdx} :
    SameButGie (execMfusr rt u (s.withGie g)) (execMfusr rt u s) := by
  unfold execMfusr
  rw [State.withGie_params]
  match s.params.usrTarget u with
  | none => exact .refl _
  | some (.half _ .lo) | some (.half _ .hi) | some .entry => exact writeReg_withGie

theorem execMtusr_withGie {rt : RegIdx} {u : UsrIdx} :
    SameButGie (execMtusr rt u (s.withGie g)) (execMtusr rt u s) := by
  unfold execMtusr
  rw [State.withGie_params]
  match s.params.usrTarget u with
  | none => exact .refl _
  | some (.half _ .lo) | some (.half _ .hi) | some .entry => exact .next fun _ => rfl

end

/-! ### Every instruction -/

/-- No instruction but `mfsr` reads `PSW.GIE`. -/
theorem exec_withGie {i : Instr} (hi : ∀ rt n, i ≠ .mfsr rt n) (s : State) (g : Bool) :
    SameButGie (exec i (s.withGie g)) (exec i s) := by
  cases i with
  | mfsr => exact absurd rfl (hi _ _)
  | mtsr => exact execMtsr_withGie
  | lwi | lhi | lhsi | lbi | lbsi => exact loadAt_withGie
  | lwiBi | lhiBi | lhsiBi | lbiBi | lbsiBi => exact loadPostImm_withGie
  | swi | shi | sbi => exact storeAt_withGie
  | swiBi | shiBi | sbiBi => exact storePost_withGie
  | lw | lh | lhs | lb | lbs => exact ifWellFormed_withGie loadAt_withGie
  | lwBi | lhBi | lhsBi | lbBi | lbsBi => exact ifWellFormed_withGie loadPostReg_withGie
  | sw | sh | sb => exact ifWellFormed_withGie storeAt_withGie
  | swBi | shBi | sbBi => exact ifWellFormed_withGie storePost_withGie
  | j | jal | jr | ret | jral | jralLp | retItoff | retToff => exact transferTo_sameButGie _ fun _ => rfl
  | beq | bne | beqz | bnez | bgez | bltz | bgtz | blez => exact branchIf_withGie
  | bgezal | bltzal => exact branchLinkIf_withGie
  | addi | subri | andi | ori | xori | slti | sltsi | movi | sethi | add | sub | and | nor | or | xor | slt | slts
  | sva | svs | seb | seh | zeb | zeh | wsbh | slli | srli | srai | rotri | sll | srl | sra | rotr | mul =>
    exact writeReg_withGie
  | mults64 | mult64 | madds64 | madd64 | msubs64 | msub64 => exact ifWellFormed_withGie writeDreg_withGie
  | mult32 | madd32 | msub32 => exact ifWellFormed_withGie writeDlo_withGie
  | mfusr => exact execMfusr_withGie
  | mtusr => exact execMtusr_withGie
  | div => exact ifWellFormed_withGie (.ite (.refl _) writeDreg_withGie)
  | divs => exact ifWellFormed_withGie (.ite (.refl _) (.ite (.refl _) writeDreg_withGie))
  | cmovz | cmovn => exact moveIf_withGie
  | dsb | isb => exact advance_withGie
  | teqz | tnez => exact trapIf_withGie
  | brk | syscall | trap | iret | cctl | standby => exact .refl _
  | setendB | setendL | setgieE | setgieD => exact .next fun _ => rfl

/-- Settles O14, instruction by instruction. -/
theorem interruptEnableIsNeverRead : Obligations.InterruptEnableIsNeverRead :=
  fun _ s g g' hi => exec_withGie hi s g g'

end Sys2Proof.Machine

/-! PROOFS. Loads and stores, what each can end in: ill-formed, refused for an overlap, stopped by a check of its one
access, or complete (R286). That program text is never written, the faults of an access, and a word read back follow. -/

namespace Sys2Proof.Machine

/-! ### The checks of a data access -/

theorem add_one_add_ofNat (p : Word) (k : Nat) : p + 1#32 + BitVec.ofNat 32 k = p + BitVec.ofNat 32 (k + 1) := by
  rw [BitVec.add_assoc, BitVec.add_comm 1#32, BitVec.ofNat_add]

/-- The byte reported is the lowest one not admitted (R286(8)). -/
theorem firstBad_eq_some {ok : Nat → Bool} {p : Word} {n k : Nat} (hk : k < n)
    (hbad : ok (p + BitVec.ofNat 32 k).toNat = false)
    (hlow : ∀ j < k, ok (p + BitVec.ofNat 32 j).toNat = true) :
    firstBad ok p n = some (p + BitVec.ofNat 32 k) := by
  induction n generalizing p k with
  | zero => exact absurd hk (Nat.not_lt_zero k)
  | succ n ih =>
    cases k with
    | zero =>
      rw [BitVec.add_zero] at hbad ⊢
      simp only [firstBad, hbad, Bool.false_eq_true, if_false]
    | succ k =>
      have hfirst : ok p.toNat = true := by simpa using hlow 0 (Nat.succ_pos k)
      rw [← add_one_add_ofNat] at hbad ⊢
      simp only [firstBad, hfirst, if_true]
      refine ih (Nat.lt_of_succ_lt_succ hk) hbad fun j hj => ?_
      rw [add_one_add_ofNat]
      exact hlow (j + 1) (Nat.succ_lt_succ hj)

section
variable {s : State} {ok : Nat → Bool} {a p : Word} {sz : Size}

theorem State.checkData_misaligned (h : a.toNat % sizeBytes sz ≠ 0) :
    s.checkData ok a sz = .error (.dataMisaligned a (sizeBytes sz)) := by
  simp only [State.checkData, aligned, h, decide_false, Bool.false_eq_true, if_false]

theorem State.checkData_untranslated (ha : a.toNat % sizeBytes sz = 0) (ht : s.translate .data a = none) :
    s.checkData ok a sz = .error (.translationFault .data a) := by
  simp only [State.checkData, aligned, ha, decide_true, if_true, ht]

theorem State.checkData_unadmitted {b : Word} (ha : a.toNat % sizeBytes sz = 0) (ht : s.translate .data a = some p)
    (hb : firstBad ok p (sizeBytes sz) = some b) : s.checkData ok a sz = .error (.accessFault b) := by
  simp only [State.checkData, aligned, ha, decide_true, if_true, ht, hb]

/-- No byte access is misaligned (R55). -/
theorem State.checkData_byte {a' : Word} {n : Nat} : s.checkData ok a .byte ≠ .error (.dataMisaligned a' n) := by
  have ha : a.toNat % sizeBytes .byte = 0 := Nat.mod_one _
  cases ht : s.translate .data a with
  | none => rw [State.checkData_untranslated ha ht]; nofun
  | some p =>
    cases hb : firstBad ok p (sizeBytes .byte) with
    | some b => rw [State.checkData_unadmitted ha ht hb]; nofun
    | none => rw [State.checkData_ok.mpr ⟨ha, ht, firstBad_eq_none.mp hb⟩]; nofun

end

/-! ### What a load or store can end in -/

/-- The outcomes of a load or store whose one access is of size `sz` at `a`, in the order of R286. -/
inductive AccessOutcome (i : Instr) (s : State) (a : Word) (sz : Size) : Out → Prop where
  | illFormed (hwf : i.wellFormed s.params = false) :
      AccessOutcome i s a sz (.fault (.notAnInstruction s.pc (s.wordOf i)))
  | overlap {c : OverlapCase} (hov : overlapsLoad i = true) : AccessOutcome i s a sz (.refused (.operandOverlap c))
  | stops {f : Fault} (hcheck : s.checkData (s.admits i) a sz = .error f) : AccessOutcome i s a sz (.fault f)
  | completes {p : Word} {t : State} (hcheck : s.checkData (s.admits i) a sz = .ok p) :
      AccessOutcome i s a sz (.next t)

section
variable {i : Instr} {s : State} {a : Word} {sz : Size} {sg : Bool} {rt ra rb : RegIdx} {inc : Word}

theorem AccessOutcome.ifWellFormed {o : Out} (h : AccessOutcome i s a sz o) :
    AccessOutcome i s a sz (ifWellFormed i s o) := by
  obtain ⟨-, he⟩ | ⟨hwf, he⟩ := ifWellFormed_eq i s o <;> rw [he]
  · exact h
  · exact .illFormed hwf

/-- A read answers what its check does (R137). -/
theorem State.memRead_cases (hi : isStore i = false) (a : Word) (sz : Size) :
    (∃ f, s.checkData (s.admits i) a sz = .error f ∧ s.memRead a sz = .error f) ∨
    ∃ p v, s.checkData (s.admits i) a sz = .ok p ∧ s.memRead a sz = .ok v := by
  rw [State.admits_load hi]
  cases hcheck : s.checkData s.params.loadable a sz with
  | error f => exact .inl ⟨f, rfl, State.memRead_error hcheck⟩
  | ok p => exact .inr ⟨p, _, rfl, State.memRead_ok.mpr ⟨p, State.checkData_ok.mp hcheck, rfl⟩⟩

/-- A write answers what its check does (R137). -/
theorem State.memWrite_cases (hi : isStore i = true) (a : Word) (sz : Size) (v : Word) :
    (∃ f, s.checkData (s.admits i) a sz = .error f ∧ s.memWrite a sz v = .error f) ∨
    ∃ p t, s.checkData (s.admits i) a sz = .ok p ∧ s.memWrite a sz v = .ok t := by
  rw [State.admits_store hi]
  cases hcheck : s.checkData s.storable a sz with
  | error f => exact .inl ⟨f, rfl, State.memWrite_error hcheck v⟩
  | ok p => exact .inr ⟨p, _, rfl, State.memWrite_ok.mpr ⟨p, State.checkData_ok.mp hcheck, rfl⟩⟩

theorem loadAt_access (hi : isStore i = false) : AccessOutcome i s a sz (loadAt sz sg rt a s) := by
  unfold loadAt
  obtain ⟨f, hcheck, hread⟩ | ⟨p, v, hcheck, hread⟩ := State.memRead_cases (s := s) hi a sz <;> rw [hread]
  · exact .stops hcheck
  · exact .completes hcheck

theorem loadPost_access (hi : isStore i = false) :
    AccessOutcome i s (s.reg ra) sz (loadPost sz sg rt ra inc s) := by
  unfold loadPost
  obtain ⟨f, hcheck, hread⟩ | ⟨p, v, hcheck, hread⟩ := State.memRead_cases (s := s) hi (s.reg ra) sz <;> rw [hread]
  · exact .stops hcheck
  · exact .completes hcheck

theorem loadPostImm_access (hi : isStore i = false) (hov : overlapsLoad i = decide (rt = ra)) :
    AccessOutcome i s (s.reg ra) sz (loadPostImm sz sg rt ra inc s) := by
  unfold loadPostImm
  split
  · next he => exact .overlap (hov.trans (decide_eq_true he))
  · exact loadPost_access hi

theorem loadPostReg_access (hi : isStore i = false) (hov : overlapsLoad i = (decide (rt = ra) || decide (rt = rb))) :
    AccessOutcome i s (s.reg ra) sz (loadPostReg sz sg rt ra rb inc s) := by
  unfold loadPostReg
  split
  · next he => exact .overlap (by simp [hov, he])
  · split
    · next he => exact .overlap (by simp [hov, he])
    · exact loadPost_access hi

theorem storeAt_access (hi : isStore i = true) : AccessOutcome i s a sz (storeAt sz rt a s) := by
  unfold storeAt
  obtain ⟨f, hcheck, hwrite⟩ | ⟨p, t, hcheck, hwrite⟩ :=
    State.memWrite_cases (s := s) hi a sz (s.reg rt) <;> rw [hwrite]
  · exact .stops hcheck
  · exact .completes hcheck

theorem storePost_access (hi : isStore i = true) : AccessOutcome i s (s.reg ra) sz (storePost sz rt ra inc s) := by
  unfold storePost
  obtain ⟨f, hcheck, hwrite⟩ | ⟨p, t, hcheck, hwrite⟩ :=
    State.memWrite_cases (s := s) hi (s.reg ra) sz (s.reg rt) <;> rw [hwrite]
  · exact .stops hcheck
  · exact .completes hcheck

end

/-- What each of the 32 loads and stores can end in. -/
theorem exec_access {i : Instr} {s : State} {a : Word} {n : Nat} (h : dataAccess i s = some (a, n)) :
    ∃ sz, AccessOutcome i s a sz (exec i s) ∧ n = sizeBytes sz := by
  cases i with
  | lwi | lhi | lhsi | lbi | lbsi => cases h; exact ⟨_, loadAt_access rfl, rfl⟩
  | lwiBi | lhiBi | lhsiBi | lbiBi | lbsiBi => cases h; exact ⟨_, loadPostImm_access rfl rfl, rfl⟩
  | swi | shi | sbi => cases h; exact ⟨_, storeAt_access rfl, rfl⟩
  | swiBi | shiBi | sbiBi => cases h; exact ⟨_, storePost_access rfl, rfl⟩
  | lw | lh | lhs | lb | lbs => cases h; exact ⟨_, (loadAt_access rfl).ifWellFormed, rfl⟩
  | lwBi | lhBi | lhsBi | lbBi | lbsBi => cases h; exact ⟨_, (loadPostReg_access rfl rfl).ifWellFormed, rfl⟩
  | sw | sh | sb => cases h; exact ⟨_, (storeAt_access rfl).ifWellFormed, rfl⟩
  | swBi | shBi | sbBi => cases h; exact ⟨_, (storePost_access rfl).ifWellFormed, rfl⟩
  | _ => cases h

theorem sizeBytes_inj {sz sz' : Size} (h : sizeBytes sz = sizeBytes sz') : sz = sz' := by
  match sz, sz', h with
  | .byte, .byte, _ | .half, .half, _ | .word, .word, _ => rfl

/-- A failed check is the outcome of a well-formed load or store whose operands do not overlap. -/
theorem exec_access_error {i : Instr} {s : State} {a : Word} {n : Nat} (h : dataAccess i s = some (a, n))
    (hwf : i.wellFormed s.params = true) (hov : overlapsLoad i = false) : ∃ sz, n = sizeBytes sz ∧
      ∀ f, s.checkData (s.admits i) a sz = .error f → exec i s = .fault f := by
  obtain ⟨sz, hout, hn⟩ := exec_access h
  refine ⟨sz, hn, fun f hf => ?_⟩
  generalize exec i s = o at hout ⊢
  cases hout with
  | illFormed hno => rw [hwf] at hno; cases hno
  | overlap hyes => rw [hov] at hyes; cases hyes
  | stops hcheck => rw [hf] at hcheck; cases hcheck; rfl
  | completes hcheck => rw [hf] at hcheck; cases hcheck

/-- Settles O52: the first check is that of the alignment, which every byte access passes. -/
theorem misalignedAccessesRaise : Obligations.MisalignedAccessesRaise := by
  refine ⟨fun i s a n h hwf hov hmis => ?_, fun i s a h a' n hfault => ?_⟩
  · obtain ⟨sz, rfl, hstop⟩ := exec_access_error h hwf hov
    exact hstop _ (State.checkData_misaligned hmis)
  · obtain ⟨sz, hout, hn⟩ := exec_access h
    obtain rfl : Size.byte = sz := sizeBytes_inj hn
    rw [hfault] at hout
    cases hout with
    | stops hcheck => exact State.checkData_byte hcheck

/-- Settles O53: an aligned access that stops does so at its translation or at the lowest byte not admitted. -/
theorem unallocatedAccessesRaise : Obligations.UnallocatedAccessesRaise := by
  intro i s a n h hwf hov ha
  obtain ⟨sz, rfl, hstop⟩ := exec_access_error h hwf hov
  exact ⟨fun ht => hstop _ (State.checkData_untranslated ha ht), fun p k ht hk hbad hlow =>
    hstop _ (State.checkData_unadmitted ha ht (firstBad_eq_some hk hbad hlow))⟩

/-! ### What no store may write -/

/-- The launch parameters, and every byte that no store may write, are as before. -/
def KeepsUnwritable (s t : State) : Prop :=
  t.params = s.params ∧ ∀ a : Word, s.storable a.toNat = false → t.byteAt a = s.byteAt a

/-- Which bytes a store may write is the launch's to say. -/
theorem State.storable_congr {s t : State} (h : t.params = s.params) : t.storable = s.storable := by
  unfold State.storable; rw [h]

theorem KeepsUnwritable.refl (s : State) : KeepsUnwritable s s := ⟨rfl, fun _ _ => rfl⟩

theorem KeepsUnwritable.trans {s t u : State} (h : KeepsUnwritable s t) (h' : KeepsUnwritable t u) :
    KeepsUnwritable s u := by
  obtain ⟨hparams, hbytes⟩ := h
  obtain ⟨hparams', hbytes'⟩ := h'
  refine ⟨hparams'.trans hparams, fun a ha => ?_⟩
  have ha' : t.storable a.toNat = false := by rw [State.storable_congr hparams, ha]
  exact (hbytes' a ha').trans (hbytes a ha)

/-- A store that completes passed its checks. -/
theorem exec_store_reaches {i : Instr} {s t : State} {a : Word} {n : Nat} (hi : isStore i = true)
    (ha : dataAccess i s = some (a, n)) (h : exec i s = .next t) : ∃ p, s.Stores a n p := by
  obtain ⟨sz, hout, rfl⟩ := exec_access ha
  rw [h] at hout
  cases hout with
  | completes hcheck =>
    rw [State.admits_store hi] at hcheck
    exact ⟨_, State.checkData_ok.mp hcheck⟩

/-- The bytes a store writes are bytes a store may write. -/
theorem exec_keeps_unwritable {i : Instr} {s t : State} (h : exec i s = .next t) : KeepsUnwritable s t := by
  obtain ⟨u, g, q, hw, -, rfl⟩ := exec_completes h
  cases hw with
  | nothing | dreg | usrEntry | sysReg | pswWord | mode => exact ⟨rfl, fun _ _ => rfl⟩
  | store hi ha hp =>
    obtain ⟨p', -, hp', hstorable⟩ := exec_store_reaches hi ha h
    obtain rfl : _ = p' := Option.some.inj (hp.symm.trans hp')
    refine ⟨rfl, fun b hb => State.byteAt_storeBytes_other s _ _ _ fun hmem => ?_⟩
    rw [hstorable b hmem] at hb
    cases hb

theorem step_keeps_unwritable {s t : State} (h : step s = .next t) : KeepsUnwritable s t := by
  obtain ⟨-, i, -, hexec⟩ := step_next h
  exact exec_keeps_unwritable hexec

theorem After.keeps_unwritable {k : Nat} {s u : State} (h : After k s u) : KeepsUnwritable s u := by
  induction k generalizing s with
  | zero => cases h; exact .refl _
  | succ k ih =>
    obtain ⟨t, hstep, hafter⟩ := h
    exact (step_keeps_unwritable hstep).trans (ih hafter)

/-- A completed step was fetched from program text (R67, R313). -/
theorem step_fetched_from_text {s t : State} (hbin : s.params.program = .binary) (h : step s = .next t) :
    ∀ a ∈ addresses s.fetchAddress 4, s.params.fetchable a.toNat = true := by
  obtain ⟨-, i, hi, -⟩ := step_next h
  rw [State.nextInstr_binary hbin] at hi
  obtain ⟨w, hw, -⟩ := State.fetchInstr_ok.mp hi
  obtain ⟨p, hp, htext, -⟩ := State.fetchWord_ok.mp hw
  have hfetch : s.fetchAddress = p := by unfold State.fetchAddress; rw [hp]; rfl
  rw [hfetch]
  exact firstBad_eq_none.mp htext

theorem overlapsLoad_eq_false_of_isStore {i : Instr} (h : isStore i = true) : overlapsLoad i = false := by
  cases i with
  | swi | shi | sbi | swiBi | shiBi | sbiBi | sw | sh | sb | swBi | shBi | sbBi => rfl
  | _ => cases h

/-- A well-formed, aligned store that reaches a byte no store may write faults at the store (R67). -/
theorem exec_store_accessFault {i : Instr} {s : State} {x p a : Word} {n : Nat} (hi : isStore i = true)
    (hwf : i.wellFormed s.params = true) (hx : dataAccess i s = some (x, n)) (hal : x.toNat % n = 0)
    (ht : s.translate .data x = some p) (ha : a ∈ addresses p n) (hno : s.storable a.toNat = false) :
    ∃ b, exec i s = .fault (.accessFault b) := by
  have hov := overlapsLoad_eq_false_of_isStore hi
  obtain ⟨sz, rfl, hstop⟩ := exec_access_error hx hwf hov
  cases hbad : firstBad (s.admits i) p (sizeBytes sz) with
  | some b => exact ⟨b, hstop _ (State.checkData_unadmitted hal ht hbad)⟩
  | none =>
    have hyes := firstBad_eq_none.mp hbad a ha
    rw [State.admits_store hi, hno] at hyes
    cases hyes

/-- Settles O10: program text and unallocated bytes are never storable, and every completed step keeps those. -/
theorem programTextIsNeverWritten : Obligations.ProgramTextIsNeverWritten := by
  refine ⟨fun s t h => ?_, fun k s u v hbin hafter hstep a ha => ?_⟩
  · obtain ⟨hparams, hbytes⟩ := step_keeps_unwritable h
    refine ⟨hparams, fun a ha => hbytes a ?_, fun hbin => ⟨fun a ha => hbytes a ?_, step_fetched_from_text hbin h⟩⟩
    · exact Bool.eq_false_iff.mpr fun hs => Bool.eq_false_iff.mp ha (State.loadable_of_storable hs)
    · exact State.storable_eq_false_of_fetchable hbin ha
  · have hkeeps : KeepsUnwritable s u := hafter.keeps_unwritable
    have hparams := hkeeps.1
    have htext := step_fetched_from_text (hparams ▸ hbin) hstep a ha
    have hno : s.storable a.toNat = false := State.storable_eq_false_of_fetchable hbin (hparams ▸ htext)
    obtain ⟨-, hbytes⟩ := hkeeps.trans (step_keeps_unwritable hstep)
    exact ⟨hno, hbytes a hno, fun i x n p hi hwf hx hal ht hmem => exec_store_accessFault hi hwf hx hal ht hmem hno⟩

/-! ### A word stored and read back -/

/-- The bytes of a word, assembled in the order they were split in, are the word (R51, R52). -/
theorem assemble_split_word (be : Bool) (v : Word) : assemble be (split be (sizeBytes .word) v) = v := by
  rw [split_word]
  cases be <;> exact (assembleLittle_four ..).trans (join_bytes_of_word v)

/-- The bytes of a word, assembled in the other order, are the word byte-reversed (R53). -/
theorem assemble_split_word_reversed (be : Bool) (v : Word) :
    assemble (!be) (split be (sizeBytes .word) v) = byteReverse v := by
  rw [split_word]
  cases be <;> exact assembleLittle_four ..

/-- The bytes of a store, read back (R63). -/
theorem State.readBytes_storeBytes (s : State) (p : Word) (sz : Size) (v : Word) :
    readBytes (s.storeBytes p sz v).mem p (sizeBytes sz) = split s.psw.be (sizeBytes sz) v :=
  (readBytes_eq_map ..).trans (s.bytes_storeBytes p sz v)

/-- A byte that may be stored to may be read: the load of a completed store reaches the same bytes (R60). -/
theorem State.Stores.loads {s : State} {a p : Word} {n : Nat} (h : s.Stores a n p) : s.Loads a n p := by
  obtain ⟨ha, ht, hstorable⟩ := h
  exact ⟨ha, ht, fun b hb => State.loadable_of_storable (hstorable b hb)⟩

theorem exec_swi {s : State} {rt ra : RegIdx} {imm : BitVec 15} {p : Word}
    (h : s.Stores (s.reg ra + scaled imm 2) 4 p) :
    exec (.swi rt ra imm) s = .next (s.storeBytes p .word (s.reg rt)).advance := by
  change storeAt .word rt _ s = _
  unfold storeAt
  rw [State.memWrite_ok.mpr ⟨p, h, rfl⟩]

theorem exec_lwi {s : State} {rt ra : RegIdx} {imm : BitVec 15} {p : Word}
    (h : s.Loads (s.reg ra + scaled imm 2) 4 p) :
    exec (.lwi rt ra imm) s = .next (s.setReg rt (assemble s.psw.be (readBytes s.mem p 4))).advance := by
  change loadAt .word false rt _ s = _
  unfold loadAt
  rw [State.memRead_ok.mpr ⟨p, h, rfl⟩]
  rfl

/-- A state after a word store: the bytes stored, and the registers, parameters and translation of data of before. -/
structure WordStored (s t : State) (p v : Word) : Prop where
  bytes : readBytes t.mem p 4 = split s.psw.be (sizeBytes .word) v
  regs : ∀ r, t.reg r = s.reg r
  params : t.params = s.params
  dt : t.psw.dt = s.psw.dt

/-- What `lwi` reads after a word store at the same address, in the byte order that PSW has by then. -/
theorem WordStored.load {s t : State} {p v : Word} (h : WordStored s t p v) {rt ra : RegIdx} {imm : BitVec 15}
    (hs : s.Stores (s.reg ra + scaled imm 2) 4 p) : ∃ u, exec (.lwi rt ra imm) t = .next u ∧
      u.reg rt = assemble t.psw.be (split s.psw.be (sizeBytes .word) v) := by
  have hloads : t.Loads (t.reg ra + scaled imm 2) 4 p := by
    have hs' := hs.loads
    simpa only [State.Loads, State.Reaches, State.translate, h.regs, h.params, h.dt] using hs'
  refine ⟨_, exec_lwi hloads, ?_⟩
  rw [h.bytes]
  simp

/-- The word read back in the other byte order, which the instruction between has set. -/
theorem load_after_setend {s : State} {rt rt' ra : RegIdx} {imm : BitVec 15} {p : Word} {be : Bool}
    (hs : s.Stores (s.reg ra + scaled imm 2) 4 p) (hbe : be = !s.psw.be) :
    ∃ v, exec (.lwi rt' ra imm) ((s.storeBytes p .word (s.reg rt)).advance.setPsw { s.psw with be := be }).advance =
      .next v ∧ v.reg rt' = byteReverse (s.reg rt) := by
  obtain ⟨v, hv, hreg⟩ := WordStored.load
    (t := ((s.storeBytes p .word (s.reg rt)).advance.setPsw { s.psw with be := be }).advance) (rt := rt')
    ⟨s.readBytes_storeBytes p .word (s.reg rt), fun _ => rfl, rfl, rfl⟩ hs
  refine ⟨v, hv, hreg.trans ?_⟩
  rw [State.advance_psw, State.setPsw_psw, hbe]
  exact assemble_split_word_reversed ..

/-- Settles O55: the bytes stored are assembled in the same order, or in the other. -/
theorem storedWordReadBack : Obligations.StoredWordReadBack := by
  intro s rt rt' ra imm p hs
  refine ⟨_, exec_swi hs, ?_, fun hbe => ?_, fun hbe => ?_⟩
  · obtain ⟨v, hv, hreg⟩ := WordStored.load (t := (s.storeBytes p .word (s.reg rt)).advance) (rt := rt')
      ⟨s.readBytes_storeBytes p .word (s.reg rt), fun _ => rfl, rfl, rfl⟩ hs
    exact ⟨v, hv, hreg.trans (assemble_split_word ..)⟩
  · obtain ⟨v, hv, hreg⟩ := load_after_setend (be := true) (rt := rt) (rt' := rt') hs (by rw [hbe]; rfl)
    exact ⟨_, v, rfl, hv, hreg⟩
  · obtain ⟨v, hv, hreg⟩ := load_after_setend (be := false) (rt := rt) (rt' := rt') hs (by rw [hbe]; rfl)
    exact ⟨_, v, rfl, hv, hreg⟩

end Sys2Proof.Machine

/-! PROOFS. The word of a decoded instruction is the word decoded (R90 to R100): format by format, the fields of a word
joined are the word. -/

namespace Sys2Proof

/-! ### The fields of a word joined, format by format -/

section
variable {w : Word} (htop : w.extractLsb' 31 1 = 0#1)
include htop

theorem encI15_fields {opc : BitVec 6} (hopc : w.extractLsb' 25 6 = opc) :
    encI15 opc (fieldRt w) (fieldRa w) (fieldImm15 w) = w := by
  have hjoin : w.extractLsb' 31 1 ++ w.extractLsb' 25 6 ++ fieldRt w ++ fieldRa w ++ fieldImm15 w = w := by
    simp only [fieldRt, fieldRa, fieldImm15, BitVec.extractLsb'_append_extractLsb'_eq_extractLsb']
    exact BitVec.extractLsb'_eq_self
  rwa [htop, hopc] at hjoin

theorem encI20_fields {opc : BitVec 6} (hopc : w.extractLsb' 25 6 = opc) :
    encI20 opc (fieldRt w) (fieldImm20 w) = w := by
  have hjoin : w.extractLsb' 31 1 ++ w.extractLsb' 25 6 ++ fieldRt w ++ fieldImm20 w = w := by
    simp only [fieldRt, fieldImm20, BitVec.extractLsb'_append_extractLsb'_eq_extractLsb']
    exact BitVec.extractLsb'_eq_self
  rwa [htop, hopc] at hjoin

theorem encBr2_fields {sub : BitVec 4} (hopc : w.extractLsb' 25 6 = 0b100111#6) (hsub : w.extractLsb' 16 4 = sub) :
    encBr2 sub (fieldRt w) (fieldImm16 w) = w := by
  have hjoin : w.extractLsb' 31 1 ++ w.extractLsb' 25 6 ++ fieldRt w ++ w.extractLsb' 16 4 ++ fieldImm16 w = w := by
    simp only [fieldRt, fieldImm16, BitVec.extractLsb'_append_extractLsb'_eq_extractLsb']
    exact BitVec.extractLsb'_eq_self
  rwa [htop, hopc, hsub] at hjoin

theorem encJi_fields {sub : BitVec 1} (hopc : w.extractLsb' 25 6 = 0b100100#6) (hsub : w.extractLsb' 24 1 = sub) :
    encJi sub (fieldImm24 w) = w := by
  have hjoin : w.extractLsb' 31 1 ++ w.extractLsb' 25 6 ++ w.extractLsb' 24 1 ++ fieldImm24 w = w := by
    simp only [fieldImm24, BitVec.extractLsb'_append_extractLsb'_eq_extractLsb']
    exact BitVec.extractLsb'_eq_self
  rwa [htop, hopc, hsub] at hjoin

theorem encBr1_fields {sub : BitVec 1} (hopc : w.extractLsb' 25 6 = 0b100110#6) (hsub : w.extractLsb' 14 1 = sub) :
    encBr1 sub (fieldRt w) (fieldRa w) (fieldImm14 w) = w := by
  have hjoin : w.extractLsb' 31 1 ++ w.extractLsb' 25 6 ++ fieldRt w ++ fieldRa w ++ w.extractLsb' 14 1 ++
      fieldImm14 w = w := by
    simp only [fieldRt, fieldRa, fieldImm14, BitVec.extractLsb'_append_extractLsb'_eq_extractLsb']
    exact BitVec.extractLsb'_eq_self
  rwa [htop, hopc, hsub] at hjoin

theorem encAlu1_fields {sub : BitVec 5} (hopc : w.extractLsb' 25 6 = 0b100000#6) (hmid : fieldMid5 w = 0#5)
    (hsub : fieldSub5 w = sub) : encAlu1 sub (fieldRt w) (fieldRa w) (fieldRb w) = w := by
  have hjoin : w.extractLsb' 31 1 ++ w.extractLsb' 25 6 ++ fieldRt w ++ fieldRa w ++ fieldRb w ++ fieldMid5 w ++
      fieldSub5 w = w := by
    simp only [fieldRt, fieldRa, fieldRb, fieldMid5, fieldSub5, BitVec.extractLsb'_append_extractLsb'_eq_extractLsb']
    exact BitVec.extractLsb'_eq_self
  rwa [htop, hopc, hmid, hsub] at hjoin

theorem encAlu1_fields_unary {sub : BitVec 5} (hopc : w.extractLsb' 25 6 = 0b100000#6) (hmid : fieldMid5 w = 0#5)
    (hrb : fieldRb w = 0#5) (hsub : fieldSub5 w = sub) : encAlu1 sub (fieldRt w) (fieldRa w) 0#5 = w :=
  hrb ▸ encAlu1_fields htop hopc hmid hsub

theorem encAlu2_fields {sub : BitVec 6} (hopc : w.extractLsb' 25 6 = 0b100001#6) (hmid : w.extractLsb' 6 4 = 0#4)
    (hsub : w.extractLsb' 0 6 = sub) : encAlu2 sub (fieldRt w) (fieldRa w) (fieldRb w) = w := by
  have hjoin : w.extractLsb' 31 1 ++ w.extractLsb' 25 6 ++ fieldRt w ++ fieldRa w ++ fieldRb w ++ w.extractLsb' 6 4 ++
      w.extractLsb' 0 6 = w := by
    simp only [fieldRt, fieldRa, fieldRb, BitVec.extractLsb'_append_extractLsb'_eq_extractLsb']
    exact BitVec.extractLsb'_eq_self
  rwa [htop, hopc, hmid, hsub] at hjoin

theorem encD3_fields {sub : BitVec 6} (hopc : w.extractLsb' 25 6 = 0b100001#6) (hhigh : w.extractLsb' 22 3 = 0#3)
    (hlow : w.extractLsb' 20 1 = 0#1) (hmid : w.extractLsb' 6 4 = 0#4) (hsub : w.extractLsb' 0 6 = sub) :
    encD3 sub (fieldD w) (fieldRa w) (fieldRb w) = w := by
  have hjoin : w.extractLsb' 31 1 ++ w.extractLsb' 25 6 ++ w.extractLsb' 22 3 ++ fieldD w ++ w.extractLsb' 20 1 ++
      fieldRa w ++ fieldRb w ++ w.extractLsb' 6 4 ++ w.extractLsb' 0 6 = w := by
    simp only [fieldD, fieldRa, fieldRb, BitVec.extractLsb'_append_extractLsb'_eq_extractLsb']
    exact BitVec.extractLsb'_eq_self
  rwa [htop, hopc, hhigh, hlow, hmid, hsub] at hjoin

theorem encUsr_fields {sub : BitVec 6} (hopc : w.extractLsb' 25 6 = 0b100001#6) (hmid : w.extractLsb' 6 4 = 0#4)
    (hsub : w.extractLsb' 0 6 = sub) : encUsr sub (fieldRt w) (fieldIdx10 w) = w := by
  have hjoin : w.extractLsb' 31 1 ++ w.extractLsb' 25 6 ++ fieldRt w ++ fieldIdx10 w ++ w.extractLsb' 6 4 ++
      w.extractLsb' 0 6 = w := by
    simp only [fieldRt, fieldIdx10, BitVec.extractLsb'_append_extractLsb'_eq_extractLsb']
    exact BitVec.extractLsb'_eq_self
  rwa [htop, hopc, hmid, hsub] at hjoin

theorem encMem_fields {sub : BitVec 8} (hopc : w.extractLsb' 25 6 = 0b011100#6) (hsub : w.extractLsb' 0 8 = sub) :
    encMem sub (fieldRt w) (fieldRa w) (fieldRb w) (fieldSv w) = w := by
  have hjoin : w.extractLsb' 31 1 ++ w.extractLsb' 25 6 ++ fieldRt w ++ fieldRa w ++ fieldRb w ++ fieldSv w ++
      w.extractLsb' 0 8 = w := by
    simp only [fieldRt, fieldRa, fieldRb, fieldSv, BitVec.extractLsb'_append_extractLsb'_eq_extractLsb']
    exact BitVec.extractLsb'_eq_self
  rwa [htop, hopc, hsub] at hjoin

theorem encJreg_fields {low : BitVec 10} (hopc : w.extractLsb' 25 6 = 0b100101#6) (hra : fieldRa w = 0#5)
    (hlow : w.extractLsb' 0 10 = low) : encJreg low (fieldRt w) (fieldRb w) = w := by
  have hjoin : w.extractLsb' 31 1 ++ w.extractLsb' 25 6 ++ fieldRt w ++ fieldRa w ++ fieldRb w ++
      w.extractLsb' 0 10 = w := by
    simp only [fieldRt, fieldRa, fieldRb, BitVec.extractLsb'_append_extractLsb'_eq_extractLsb']
    exact BitVec.extractLsb'_eq_self
  rwa [htop, hopc, hra, hlow] at hjoin

theorem encJreg_fields_unary {low : BitVec 10} (hopc : w.extractLsb' 25 6 = 0b100101#6) (hra : fieldRa w = 0#5)
    (hrt : fieldRt w = 0#5) (hlow : w.extractLsb' 0 10 = low) : encJreg low 0#5 (fieldRb w) = w :=
  hrt ▸ encJreg_fields htop hopc hra hlow

theorem encMisc_fields {sub : BitVec 5} {mid : BitVec 20} (hopc : w.extractLsb' 25 6 = 0b110010#6)
    (hmid : w.extractLsb' 5 20 = mid) (hsub : fieldSub5 w = sub) : encMisc sub mid = w := by
  have hjoin : w.extractLsb' 31 1 ++ w.extractLsb' 25 6 ++ w.extractLsb' 5 20 ++ fieldSub5 w = w := by
    simp only [fieldSub5, BitVec.extractLsb'_append_extractLsb'_eq_extractLsb']
    exact BitVec.extractLsb'_eq_self
  rwa [htop, hopc, hmid, hsub] at hjoin

end

/-! ### Bits 24:5 of a MISC word (R99) -/

theorem miscBits_sr {w : Word} (hmid : fieldMid5 w = 0#5) :
    w.extractLsb' 5 20 = fieldRt w ++ fieldIdx10 w ++ 0#5 := by
  rw [← hmid]
  simp only [fieldRt, fieldIdx10, fieldMid5, BitVec.extractLsb'_append_extractLsb'_eq_extractLsb']

theorem miscBits_swid (w : Word) : w.extractLsb' 5 20 = fieldRt w ++ fieldSwid w := by
  simp only [fieldRt, fieldSwid, BitVec.extractLsb'_append_extractLsb'_eq_extractLsb']

theorem miscBits_standby {w : Word} (hhigh : w.extractLsb' 7 18 = 0#18) :
    w.extractLsb' 5 20 = 0#18 ++ w.extractLsb' 5 2 := by
  rw [← hhigh]
  simp only [BitVec.extractLsb'_append_extractLsb'_eq_extractLsb']

/-! ### Decoding, format by format -/

/-- Whatever instruction is decoded, `w` is its word under every choice of the parameters: no bit of `w` is lost. -/
def LosesNoBit (w : Word) (decoded : Except DecodeError Instr) : Prop :=
  ∀ i, decoded = .ok i → i.encodable = true ∧ ∀ p, i.encode p = w

theorem LosesNoBit.error {w : Word} {e : DecodeError} : LosesNoBit w (.error e) := nofun

theorem LosesNoBit.ok {w : Word} {i : Instr} (hencodable : i.encodable = true) (hencode : ∀ p, i.encode p = w) :
    LosesNoBit w (.ok i) := by
  intro j hj
  cases hj
  exact ⟨hencodable, hencode⟩

/-- A row with a field that must be 0 (R100). -/
theorem LosesNoBit.ite {w : Word} {c : Prop} [Decidable c] {e : DecodeError} {decoded : Except DecodeError Instr}
    (h : c → LosesNoBit w decoded) : LosesNoBit w (if c then decoded else .error e) := by
  split
  · next hc => exact h hc
  · exact .error

section
variable {w : Word} (htop : w.extractLsb' 31 1 = 0#1)
include htop

theorem decodeAlu1_losesNoBit (hopc : w.extractLsb' 25 6 = 0b100000#6) : LosesNoBit w (decodeAlu1 w) := by
  refine .ite fun hmid => ?_
  split
  -- the rows of two operands, whose `rb` field is 0
  case h_17 _ hs | h_18 _ hs | h_19 _ hs | h_20 _ hs =>
    exact .ite fun hrb => .ok rfl fun _ => encAlu1_fields_unary htop hopc hmid hrb hs
  case h_25 => exact .error
  all_goals exact .ok rfl fun _ => encAlu1_fields htop hopc hmid ‹_›

/-- The rows of shape `D3`, whose operand `d` fits its one bit (R96). -/
theorem decodeD3_losesNoBit {sub : BitVec 6} {f : Nat → RegIdx → RegIdx → Instr}
    (hencodable : ∀ k ra rb, (f k ra rb).encodable = decide (k < 2 ^ 1))
    (hencode : ∀ p k ra rb, (f k ra rb).encode p = encD3 sub (BitVec.ofNat 1 k) ra rb)
    (hopc : w.extractLsb' 25 6 = 0b100001#6) (hmid : w.extractLsb' 6 4 = 0#4) (hsub : w.extractLsb' 0 6 = sub) :
    LosesNoBit w (decodeD3 w f) := by
  refine .ite fun ⟨hhigh, hlow⟩ => .ok ?_ fun p => ?_
  · exact (hencodable ..).trans (decide_eq_true (fieldD w).isLt)
  · rw [hencode, BitVec.ofNat_toNat, BitVec.setWidth_eq]
    exact encD3_fields htop hopc hhigh hlow hmid hsub

theorem decodeAlu2_losesNoBit (hopc : w.extractLsb' 25 6 = 0b100001#6) : LosesNoBit w (decodeAlu2 w) := by
  refine .ite fun hmid => ?_
  split
  case h_1 _ hs | h_2 _ hs => exact .ok rfl fun _ => encUsr_fields htop hopc hmid hs
  case h_3 _ hs => exact .ok rfl fun _ => encAlu2_fields htop hopc hmid hs
  case h_15 => exact .error
  all_goals exact decodeD3_losesNoBit htop (fun _ _ _ => rfl) (fun _ _ _ _ => rfl) hopc hmid ‹_›

theorem decodeMem_losesNoBit (hopc : w.extractLsb' 25 6 = 0b011100#6) : LosesNoBit w (decodeMem w) := by
  have hsv : BitVec.ofNat 2 (fieldSv w).toNat = fieldSv w := by rw [BitVec.ofNat_toNat, BitVec.setWidth_eq]
  have hfits := decide_eq_true (fieldSv w).isLt
  unfold decodeMem
  split
  case h_17 => exact .error
  all_goals exact .ok hfits fun _ => (congrArg _ hsv).trans (encMem_fields htop hopc ‹_›)

theorem decodeJreg_losesNoBit (hopc : w.extractLsb' 25 6 = 0b100101#6) : LosesNoBit w (decodeJreg w) := by
  refine .ite fun hra => ?_
  split
  -- `jral`, the one row that has an `rt`
  case h_1 _ hs => exact .ok rfl fun _ => encJreg_fields htop hopc hra hs
  case h_6 => exact .error
  all_goals exact .ite fun hrt => .ok rfl fun _ => encJreg_fields_unary htop hopc hra hrt ‹_›

theorem decodeBr2_losesNoBit (hopc : w.extractLsb' 25 6 = 0b100111#6) : LosesNoBit w (decodeBr2 w) := by
  unfold decodeBr2
  split
  case h_9 => exact .error
  all_goals exact .ok rfl fun _ => encBr2_fields htop hopc ‹_›

theorem decodeSwid_losesNoBit {sub : BitVec 5} {f : BitVec 15 → Instr}
    (hencodable : ∀ k, (f k).encodable = true) (hencode : ∀ p k, (f k).encode p = encMisc sub (0#5 ++ k))
    (hopc : w.extractLsb' 25 6 = 0b110010#6) (hsub : fieldSub5 w = sub) : LosesNoBit w (decodeSwid w f) := by
  refine .ite fun hrt => .ok (hencodable _) fun p => (hencode p _).trans ?_
  exact encMisc_fields htop hopc (hrt ▸ miscBits_swid w) hsub

theorem decodeBare_losesNoBit {sub : BitVec 5} {i : Instr} (hencodable : i.encodable = true)
    (hencode : ∀ p, i.encode p = encMisc sub 0#20) (hopc : w.extractLsb' 25 6 = 0b110010#6)
    (hsub : fieldSub5 w = sub) : LosesNoBit w (decodeBare w i) :=
  .ite fun hmid => .ok hencodable fun p => (hencode p).trans (encMisc_fields htop hopc hmid hsub)

theorem decodeMtsr_losesNoBit (hopc : w.extractLsb' 25 6 = 0b110010#6) (hsub : fieldSub5 w = 0b00011#5) :
    LosesNoBit w (decodeMtsr w) := by
  unfold decodeMtsr
  split
  · next hmid => exact .ok rfl fun _ => encMisc_fields htop hopc (miscBits_sr hmid) hsub
  · split
    · next hw => exact .ok rfl fun _ => hw.symm
    · split
      · next hw => exact .ok rfl fun _ => hw.symm
      · split
        · next hw => exact .ok rfl fun _ => hw.symm
        · exact .ite fun hw => .ok rfl fun _ => hw.symm

theorem decodeMisc_losesNoBit (hopc : w.extractLsb' 25 6 = 0b110010#6) : LosesNoBit w (decodeMisc w) := by
  unfold decodeMisc
  split
  case h_1 _ hs =>
    exact .ite fun hhigh => .ok rfl fun _ => encMisc_fields htop hopc (miscBits_standby hhigh) hs
  case h_2 _ hs => exact .ok rfl fun _ => encMisc_fields htop hopc rfl hs
  case h_3 _ hs => exact .ite fun hmid => .ok rfl fun _ => encMisc_fields htop hopc (miscBits_sr hmid) hs
  case h_4 _ hs => exact decodeMtsr_losesNoBit htop hopc hs
  case h_7 _ hs | h_8 _ hs => exact .ok rfl fun _ => encMisc_fields htop hopc (miscBits_swid w) hs
  case h_5 _ hs | h_9 _ hs | h_10 _ hs => exact decodeBare_losesNoBit htop rfl (fun _ => rfl) hopc hs
  case h_6 _ hs | h_11 _ hs | h_12 _ hs => exact decodeSwid_losesNoBit htop (fun _ => rfl) (fun _ _ => rfl) hopc hs
  case h_13 => exact .error

end

theorem bit_eq_zero_of_ne_one : ∀ {b : BitVec 1}, b ≠ 1#1 → b = 0#1 := by decide

theorem bit_eq_one_of_ne_zero : ∀ {b : BitVec 1}, b ≠ 0#1 → b = 1#1 := by decide

/-- No bit of a decoded word is lost (R90, R100). -/
theorem decodeWord_losesNoBit (w : Word) : LosesNoBit w (decodeWord w) := by
  unfold decodeWord
  split
  · exact .error
  · next htop =>
    replace htop := bit_eq_zero_of_ne_one htop
    split
    -- the formats in the order of their opcodes; what remains is I15
    case h_17 _ hopc => exact decodeMem_losesNoBit htop hopc
    case h_18 _ hopc => exact decodeAlu1_losesNoBit htop hopc
    case h_19 _ hopc => exact decodeAlu2_losesNoBit htop hopc
    case h_20 _ hopc | h_21 _ hopc => exact .ok rfl fun _ => encI20_fields htop hopc
    case h_22 _ hopc =>
      split
      · next hsub => exact .ok rfl fun _ => encJi_fields htop hopc hsub
      · next hsub => exact .ok rfl fun _ => encJi_fields htop hopc (bit_eq_one_of_ne_zero hsub)
    case h_23 _ hopc => exact decodeJreg_losesNoBit htop hopc
    case h_24 _ hopc =>
      split
      · next hsub => exact .ok rfl fun _ => encBr1_fields htop hopc hsub
      · next hsub => exact .ok rfl fun _ => encBr1_fields htop hopc (bit_eq_one_of_ne_zero hsub)
    case h_25 _ hopc => exact decodeBr2_losesNoBit htop hopc
    case h_33 _ hopc => exact decodeMisc_losesNoBit htop hopc
    case h_34 => exact .error
    all_goals exact .ok rfl fun _ => encI15_fields htop ‹_›

/-- The word of a decoded instruction is the word decoded. -/
theorem word_of_decodeWord {w : Word} {i : Instr} (h : decodeWord w = .ok i) (p : Params) : i.word p = some w := by
  obtain ⟨hencodable, hencode⟩ := decodeWord_losesNoBit w i h
  rw [Machine.word_of_encodable p hencodable, hencode p]

end Sys2Proof

/-! PROOFS. Where `pc` has no instruction, and operands out of range (R100, R281, R286, R313). -/

namespace Sys2Proof.Machine

/-! ### Operands out of range -/

/-- An ill-formed instruction is `NotAnInstruction` before any other outcome (R100, R286). -/
theorem exec_illFormed {i : Instr} {s : State} (h : i.wellFormed s.params = false) :
    exec i s = .fault (.notAnInstruction s.pc (s.wordOf i)) := by
  cases i with
  | mfsr | mtsr | lw | lh | lhs | lb | lbs | sw | sh | sb | lwBi | lhBi | lhsBi | lbBi | lbsBi | swBi | shBi | sbBi
  | mults64 | mult64 | madds64 | madd64 | msubs64 | msub64 | mult32 | madd32 | msub32 | div | divs =>
    exact ifWellFormed_false h _
  | mfusr rt u =>
    have hnone : s.params.usrTarget u = none := by simpa [Instr.wellFormed] using h
    change execMfusr rt u s = _
    unfold execMfusr
    rw [hnone]
    rfl
  | mtusr rt u =>
    have hnone : s.params.usrTarget u = none := by simpa [Instr.wellFormed] using h
    change execMtusr rt u s = _
    unfold execMtusr
    rw [hnone]
    rfl
  | _ => cases h

/-! ### Fetches that find no instruction -/

section
variable {s : State} {p : Word}

theorem step_standby {wake : Option (BitVec 2)} (h : s.run = .standby wake) :
    step s = .fault (.standby s.pc wake) := by
  unfold step; rw [h]; rfl

theorem step_nextInstr_error {f : Fault} (hrun : s.run = .running) (h : s.nextInstr = .error f) :
    step s = .fault f := by
  unfold step; rw [hrun, h]; rfl

theorem step_nextInstr_ok {i : Instr} (hrun : s.run = .running) (h : s.nextInstr = .ok i) : step s = exec i s := by
  unfold step; rw [hrun, h]

/-- A fetch address that does not translate faults at both levels (R61). -/
theorem State.nextInstr_untranslated (ht : s.translate .fetch s.pc = none) :
    s.nextInstr = .error (.translationFault .fetch s.pc) := by
  cases hprog : s.params.program with
  | assembly items => rw [State.nextInstr_assembly hprog]; unfold State.lookInstr; rw [ht]
  | binary => rw [State.nextInstr_binary hprog]; unfold State.fetchInstr State.fetchWord; rw [ht]

theorem State.nextInstr_unmapped {items : List ProgramItem} (ht : s.translate .fetch s.pc = some p)
    (hprog : s.params.program = .assembly items) (hnone : instrAt items p = none) :
    s.nextInstr = .error (.accessFault s.pc) := by
  rw [State.nextInstr_assembly hprog]; unfold State.lookInstr; rw [ht]; simp only [hnone]

theorem instrAt_odd {items : List ProgramItem} (h : p.toNat % 2 = 1) : instrAt items p = none := by
  cases hat : instrAt items p with
  | none => rfl
  | some i =>
    have heven := instrAt_even hat
    omega

theorem State.nextInstr_not_text (ht : s.translate .fetch s.pc = some p) (hprog : s.params.program = .binary)
    (hno : ∃ b ∈ addresses p 4, s.params.fetchable b.toNat = false) :
    s.nextInstr = .error (.accessFault s.pc) := by
  obtain ⟨b, hb, hno⟩ := hno
  rw [State.nextInstr_binary hprog]
  unfold State.fetchInstr State.fetchWord
  rw [ht]
  cases hbad : firstBad s.params.fetchable p 4 with
  | some b => simp only [hbad]
  | none =>
    rw [firstBad_eq_none.mp hbad b hb] at hno
    cases hno

/-- What is found in program text is what its word decodes to, or `NotAnInstruction` (R100). -/
theorem State.nextInstr_text (ht : s.translate .fetch s.pc = some p) (hprog : s.params.program = .binary)
    (htext : ∀ b ∈ addresses p 4, s.params.fetchable b.toNat = true) :
    (∃ i, decodeWord (s.instructionWordAt p) = .ok i ∧ s.nextInstr = .ok i) ∨
      s.nextInstr = .error (.notAnInstruction s.pc (some (s.instructionWordAt p))) := by
  have hword : s.fetchWord = .ok (s.instructionWordAt p) :=
    State.fetchWord_ok.mpr ⟨p, ht, firstBad_eq_none.mpr htext, rfl⟩
  rw [State.nextInstr_binary hprog]
  cases hdecode : decodeWord (s.instructionWordAt p) with
  | error e =>
    unfold State.fetchInstr
    simp only [hword, hdecode, or_true]
  | ok i => exact .inl ⟨i, rfl, State.fetchInstr_ok.mpr ⟨_, hword, hdecode⟩⟩

/-- A word in program text that is no well-formed instruction, whether it decodes or not (R100). -/
theorem step_not_an_instruction (hrun : s.run = .running) (ht : s.translate .fetch s.pc = some p)
    (hprog : s.params.program = .binary) (htext : ∀ b ∈ addresses p 4, s.params.fetchable b.toNat = true)
    (hill : ∀ i, decodeWord (s.instructionWordAt p) = .ok i → i.wellFormed s.params = false) :
    step s = .fault (.notAnInstruction s.pc (some (s.instructionWordAt p))) := by
  obtain ⟨i, hdecode, hnext⟩ | hnext := State.nextInstr_text ht hprog htext
  · rw [step_nextInstr_ok hrun hnext, exec_illFormed (hill i hdecode), State.wordOf_binary hprog,
      word_of_decodeWord hdecode]
  · exact step_nextInstr_error hrun hnext

end

/-- Settles O7: the fetch finds nothing, or an ill-formed instruction whose word is the one fetched. -/
theorem stepStopsWhereThereIsNoInstruction : Obligations.StepStopsWhereThereIsNoInstruction := by
  intro s p
  exact ⟨fun hrun ht => step_nextInstr_error hrun (State.nextInstr_untranslated ht),
    fun hrun ht items hprog hnone => step_nextInstr_error hrun (State.nextInstr_unmapped ht hprog hnone),
    fun hrun ht items hprog hodd => step_nextInstr_error hrun (State.nextInstr_unmapped ht hprog (instrAt_odd hodd)),
    fun hrun ht hprog hno => step_nextInstr_error hrun (State.nextInstr_not_text ht hprog hno),
    fun hrun ht hprog htext hill => step_not_an_instruction hrun ht hprog htext hill,
    fun wake hstandby => step_standby hstandby,
    fun i hill => exec_illFormed hill⟩

end Sys2Proof.Machine

/-! PROOFS. The word of an instruction decodes to the instruction (R90 to R99), but for the two aliases (R106, R107),
which mean the instruction their word decodes to; and the values immediates and displacements stand for (R83 to R86). -/

namespace Sys2Proof

/-! ### Encoded words, format by format -/

@[simp] theorem decodeWord_encMem (sub : BitVec 8) (rt ra rb : RegIdx) (sv : BitVec 2) :
    decodeWord (encMem sub rt ra rb sv) = decodeMem (encMem sub rt ra rb sv) := by
  simp [decodeWord]

@[simp] theorem decodeWord_encAlu1 (sub : BitVec 5) (rt ra rb : RegIdx) :
    decodeWord (encAlu1 sub rt ra rb) = decodeAlu1 (encAlu1 sub rt ra rb) := by
  simp [decodeWord]

@[simp] theorem decodeWord_encAlu2 (sub : BitVec 6) (rt ra rb : RegIdx) :
    decodeWord (encAlu2 sub rt ra rb) = decodeAlu2 (encAlu2 sub rt ra rb) := by
  simp [decodeWord]

@[simp] theorem decodeWord_encD3 (sub : BitVec 6) (d : BitVec 1) (ra rb : RegIdx) :
    decodeWord (encD3 sub d ra rb) = decodeAlu2 (encD3 sub d ra rb) := by
  simp [decodeWord]

@[simp] theorem decodeWord_encUsr (sub : BitVec 6) (rt : RegIdx) (u : UsrIdx) :
    decodeWord (encUsr sub rt u) = decodeAlu2 (encUsr sub rt u) := by
  simp [decodeWord]

@[simp] theorem decodeWord_encJreg (low : BitVec 10) (rt rb : RegIdx) :
    decodeWord (encJreg low rt rb) = decodeJreg (encJreg low rt rb) := by
  simp [decodeWord]

@[simp] theorem decodeWord_encBr2 (sub : BitVec 4) (rt : RegIdx) (imm : BitVec 16) :
    decodeWord (encBr2 sub rt imm) = decodeBr2 (encBr2 sub rt imm) := by
  simp [decodeWord]

@[simp] theorem decodeWord_encMisc (sub : BitVec 5) (mid : BitVec 20) :
    decodeWord (encMisc sub mid) = decodeMisc (encMisc sub mid) := by
  simp [decodeWord]

/-- The rows of shape `D3` read back an operand `d` of one bit (R96). -/
theorem decodeD3_encD3 {k : Nat} (hk : k < 2) (f : Nat → RegIdx → RegIdx → Instr) (sub : BitVec 6)
    (ra rb : RegIdx) : decodeD3 (encD3 sub (BitVec.ofNat 1 k) ra rb) f = .ok (f k ra rb) := by
  simp [decodeD3, Nat.mod_eq_of_lt hk]

/-! ### The operands within bits 24:5 of a MISC word (R99) -/

section
variable (rt : RegIdx) (n : SrIdx) (k : BitVec 15) (wake : BitVec 2)

@[simp] theorem miscBits_sr_rt : BitVec.extractLsb' 15 5 (rt ++ n ++ 0#5) = rt :=
  (extract_append_high _ _ (by decide)).trans
    ((extract_append_high _ _ (by decide)).trans BitVec.extractLsb'_eq_self)

@[simp] theorem miscBits_sr_idx10 : BitVec.extractLsb' 5 10 (rt ++ n ++ 0#5) = n :=
  (extract_append_high _ _ (by decide)).trans
    ((extract_append_low _ _ (by decide)).trans BitVec.extractLsb'_eq_self)

@[simp] theorem miscBits_sr_mid5 : BitVec.extractLsb' 0 5 (rt ++ n ++ 0#5) = 0#5 :=
  (extract_append_low _ _ (by decide)).trans BitVec.extractLsb'_eq_self

@[simp] theorem miscBits_swid_rt : BitVec.extractLsb' 15 5 (rt ++ k) = rt :=
  (extract_append_high _ _ (by decide)).trans BitVec.extractLsb'_eq_self

@[simp] theorem miscBits_swid_swid : BitVec.extractLsb' 0 15 (rt ++ k) = k :=
  (extract_append_low _ _ (by decide)).trans BitVec.extractLsb'_eq_self

@[simp] theorem miscBits_standby_high : BitVec.extractLsb' 2 18 (0#18 ++ wake) = 0#18 :=
  (extract_append_high _ _ (by decide)).trans BitVec.extractLsb'_eq_self

@[simp] theorem miscBits_standby_wake : BitVec.extractLsb' 0 2 (0#18 ++ wake) = wake :=
  (extract_append_low _ _ (by decide)).trans BitVec.extractLsb'_eq_self

end

/-! ### Every instruction -/

/-- The word of an instruction whose operands fit their fields decodes to it, or to what it stands for: one case for
each format of the encoding. -/
theorem decodeWord_encode {i : Instr} (p : Params) (h : i.encodable = true) :
    decodeWord (i.encode p) = .ok (i.canonical p) := by
  cases i with
  | lwi | lhi | lhsi | lbi | lbsi | swi | shi | sbi | lwiBi | lhiBi | lhsiBi | lbiBi | lbsiBi | swiBi | shiBi | sbiBi
  | addi | subri | andi | ori | xori | slti | sltsi | zeb | movi | sethi | j | jal | beq | bne =>
    simp [Instr.encode, Instr.canonical, decodeWord]
  | lw | lh | lhs | lb | lbs | sw | sh | sb | lwBi | lhBi | lhsBi | lbBi | lbsBi | swBi | shBi | sbBi =>
    have hsv : _ < 4 := of_decide_eq_true h
    simp [Instr.encode, Instr.canonical, decodeMem, Nat.mod_eq_of_lt hsv]
  | add | sub | and | nor | or | xor | slt | slts | sva | svs | seb | seh | zeh | wsbh | slli | srli | srai | rotri
  | sll | srl | sra | rotr | cmovz | cmovn =>
    simp [Instr.encode, Instr.canonical, decodeAlu1]
  | mul | mfusr | mtusr => simp [Instr.encode, Instr.canonical, decodeAlu2]
  | mults64 | mult64 | madds64 | madd64 | msubs64 | msub64 | mult32 | madd32 | msub32 | div | divs =>
    simp [Instr.encode, Instr.canonical, decodeAlu2, decodeD3_encD3 (of_decide_eq_true h)]
  | jr | ret | jral | jralLp | retItoff | retToff => simp [Instr.encode, Instr.canonical, decodeJreg]
  | beqz | bnez | bgez | bltz | bgtz | blez | bgezal | bltzal => simp [Instr.encode, Instr.canonical, decodeBr2]
  | mfsr | mtsr | teqz | tnez | standby => simp [Instr.encode, Instr.canonical, decodeMisc, decodeMtsr]
  | brk | syscall | trap => simp [Instr.encode, Instr.canonical, decodeMisc, decodeSwid]
  | dsb | isb | iret => simp [Instr.encode, Instr.canonical, decodeMisc, decodeBare]
  | cctl => simp [Instr.encode, Instr.canonical, decodeMisc]
  -- no operands: the four words themselves
  | setendB | setendL | setgieE | setgieD =>
    simp only [Instr.encode, Instr.canonical]
    decide

theorem encodable_of_word {p : Params} {i : Instr} {w : Word} (h : i.word p = some w) :
    i.encodable = true ∧ i.encode p = w := by
  unfold Instr.word at h
  split at h
  · next hencodable => exact ⟨hencodable, Option.some.inj h⟩
  · cases h

/-- Where `ND` and `SV_BITS` are at most 2, every operand in its range fits its field (R87, R88, R96, R97). -/
theorem encodable_of_wellFormed {p : Params} {i : Instr} (hnd : p.nd ≤ 2) (hsv : p.svBits ≤ 2)
    (h : i.wellFormed p = true) : i.encodable = true := by
  cases i with
  | lw | lh | lhs | lb | lbs | sw | sh | sb | lwBi | lhBi | lhsBi | lbBi | lbsBi | swBi | shBi | sbBi =>
    exact decide_eq_true ((of_decide_eq_true h).trans_le (Nat.pow_le_pow_right (by decide) hsv))
  | mults64 | mult64 | madds64 | madd64 | msubs64 | msub64 | mult32 | madd32 | msub32 | div | divs =>
    exact decide_eq_true ((of_decide_eq_true h).trans_le hnd)
  | _ => rfl

/-- Settles O3: what has a word is encodable, and its fields are read back format by format. -/
theorem decodingAnEncodedInstruction : Obligations.DecodingAnEncodedInstruction := by
  intro p i
  refine ⟨fun w hword => ?_, fun hnd hsv hwf => Machine.word_of_encodable p (encodable_of_wellFormed hnd hsv hwf)⟩
  obtain ⟨hencodable, rfl⟩ := encodable_of_word hword
  exact decodeWord_encode p hencodable

/-- Settles O4: no bit of a decoded word is lost. -/
theorem encodingADecodedWord : Obligations.EncodingADecodedWord :=
  fun p _ _ hdecode => word_of_decodeWord hdecode p

/-- Settles O9, by running the decoder. -/
theorem wordsOfTheSpecDecode : Obligations.WordsOfTheSpecDecode :=
  ⟨rfl, rfl, rfl, rfl, rfl, rfl, rfl, rfl, rfl, rfl, rfl, rfl, rfl, rfl, rfl, rfl⟩

end Sys2Proof

namespace Sys2Proof.Machine

/-! ### Immediates -/

/-- The mask 0xFF keeps the low byte (R106, R202). -/
theorem and_zimm15_lowByte (v : Word) : v &&& zimm15 0xFF#15 = zeroByte v :=
  have hmask : zimm15 0xFF#15 = (BitVec.allOnes 8).setWidth 32 := by decide
  calc v &&& zimm15 0xFF#15
    _ = v &&& (BitVec.allOnes 8).setWidth 32 := by rw [hmask]
    _ = 0#24 ++ v.setWidth 8 := BitVec.and_setWidth_allOnes 24 8 v
    _ = zeroByte v := (BitVec.setWidth_eq_append (by decide)).symm

/-- Settles O5: `zeb` by its mask; one-operand `jral` writes `LP`, which is the register of that index. -/
theorem aliasesMeanTheirCoreInstruction : Obligations.AliasesMeanTheirCoreInstruction := by
  intro i s
  cases i with
  | zeb rt ra => exact congrArg (writeReg rt · s) (and_zimm15_lowByte (s.reg ra))
  | _ => rfl

/-- The 20 bits of `sethi` and the 12 of `ori` do not overlap (R86). -/
theorem highImm20_or_zimm15 (c : Word) :
    highImm20 (c.extractLsb' 12 20) ||| zimm15 ((c.extractLsb' 0 12).setWidth 15) = c := by
  have hlow : zimm15 ((c.extractLsb' 0 12).setWidth 15) = 0#20 ++ c.extractLsb' 0 12 := by
    unfold zimm15
    rw [BitVec.setWidth_setWidth (by decide)]
    exact BitVec.setWidth_eq_append (by decide)
  rw [hlow, highImm20, BitVec.or_append, BitVec.or_zero, BitVec.zero_or,
    BitVec.extractLsb'_append_extractLsb'_eq_extractLsb' (start₁ := 0) (len₁ := 12) rfl]
  exact BitVec.extractLsb'_eq_self

/-- Settles O24: `ori` reads the register that `sethi` wrote. -/
theorem sethiThenOriBuildsAnyConstant : Obligations.SethiThenOriBuildsAnyConstant := by
  intro s rt c
  refine ⟨_, _, rfl, rfl, ?_⟩
  rw [State.advance_reg, State.reg_setReg_same, State.advance_reg, State.reg_setReg_same]
  exact highImm20_or_zimm15 c

/-! ### Scaled offsets and displacements -/

/-- A scaled field that fits a word loses no bit (R83, R84). -/
theorem toInt_scaled {w k : Nat} (hfits : w + k ≤ 32) (imm : BitVec w) :
    (scaled imm k).toInt = 2 ^ k * imm.toInt := by
  unfold scaled
  rw [BitVec.toInt_signExtend_of_le hfits, BitVec.toInt_append]
  split
  · next hw =>
    obtain rfl := eq_of_beq hw
    simp [BitVec.of_length_zero]
  · simp

/-- Settles O16: a 15-bit field and two more bits fit a word. -/
theorem offsetsAreScaledAndSigned : Obligations.OffsetsAreScaledAndSigned := by
  intro imm
  have hlow := BitVec.le_toInt imm
  have hhigh := BitVec.toInt_lt (x := imm)
  simp only [toInt_scaled (w := 15) (k := 2) (by decide), toInt_scaled (w := 15) (k := 1) (by decide),
    toInt_scaled (w := 15) (k := 0) (by decide)]
  omega

/-- A PC-relative target, for every width of displacement that fits (R84, R175). -/
theorem toNat_pcRelative {w : Nat} (hfits : w + 1 ≤ 32) (imm : BitVec w) (s : State) :
    ((pcRelative imm s).toNat : Int) = (s.pc.toNat + 2 * imm.toInt) % 2 ^ 32 := by
  have hmod : ((scaled imm 1).toNat : Int) ≡ (scaled imm 1).toInt [ZMOD 2 ^ 32] := by
    rw [BitVec.toInt_eq_toNat_bmod]
    exact Int.bmod_emod.symm
  calc ((pcRelative imm s).toNat : Int)
    _ = (s.pc.toNat + (scaled imm 1).toNat) % 2 ^ 32 := by rw [pcRelative, BitVec.toNat_add]; rfl
    _ = (s.pc.toNat + (scaled imm 1).toInt) % 2 ^ 32 := hmod.add_left _
    _ = (s.pc.toNat + 2 * imm.toInt) % 2 ^ 32 := by rw [toInt_scaled hfits, pow_one]

/-- Settles O17: 24, 16 and 14 bits and one more fit a word. -/
theorem pcRelativeTargets : Obligations.PcRelativeTargets :=
  fun s i24 i16 i14 =>
    ⟨toNat_pcRelative (by decide) i24 s, toNat_pcRelative (by decide) i16 s, toNat_pcRelative (by decide) i14 s⟩

/-! ### Events -/

section
variable (s : State) (k : BitVec 15)

theorem exec_brk : exec (.brk k) s = .fault (.breakpoint s.pc (s.params.eventData k)) := rfl

theorem exec_syscall : exec (.syscall k) s = .fault (.systemCall s.pc (s.params.eventData k)) := rfl

theorem exec_trap : exec (.trap k) s = .fault (.trap s.pc (s.params.eventData k)) := rfl

theorem exec_standby (wake : BitVec 2) :
    exec (.standby wake) s = .fault (.standby s.pc (s.params.eventData wake)) := rfl

end

/-- Settles O59: each event carries the data that `TRAP_OPERANDS` decides. -/
theorem eventInstructionsEndTheStep : Obligations.EventInstructionsEndTheStep := by
  intro s k wake
  rw [exec_brk, exec_syscall, exec_trap, exec_standby]
  refine ⟨fun hfixed => ?_, fun hnotFixed => ?_⟩
  · simp only [eventData_fixed hfixed, and_self]
  · simp only [eventData_notFixed hnotFixed, and_self]

end Sys2Proof.Machine

/-! PROOFS. `mfsr` and `mtsr` of a system register, by the index: one that is no member of `SRIDX_SET`, `PSW_INDEX`, or
another (R111 to R114). -/

namespace Sys2Proof.Machine

section
variable {s t : State} {n : SrIdx}

/-! ### What `mfsr` does -/

/-- `mfsr` of a member of `SRIDX_SET`: `PSW_INDEX` has a reading of its own. -/
theorem exec_mfsr_of_hasSr (hsr : s.params.hasSr n = true) (rt : RegIdx) : exec (.mfsr rt n) s =
    if n = s.params.pswIndex then readPsw rt s else writeReg rt (s.sysReg n) s :=
  ifWellFormed_true (i := .mfsr rt n) hsr _

theorem exec_mfsr_of_not_hasSr (hsr : s.params.hasSr n = false) (rt : RegIdx) :
    exec (.mfsr rt n) s = .fault (.notAnInstruction s.pc (s.wordOf (.mfsr rt n))) :=
  ifWellFormed_false (i := .mfsr rt n) hsr _

theorem exec_mfsr_sysReg (hsr : s.params.hasSr n = true) (hn : n ≠ s.params.pswIndex) (rt : RegIdx) :
    exec (.mfsr rt n) s = writeReg rt (s.sysReg n) s :=
  (exec_mfsr_of_hasSr hsr rt).trans (if_neg hn)

theorem readPsw_noLayout (hl : s.params.pswBits = none) (rt : RegIdx) :
    readPsw rt s = .refused (.unmodelled .mfsrPsw) := by
  unfold readPsw; rw [hl]; rfl

/-- A completed `mfsr` has written a register: the word of PSW at `PSW_INDEX`, the entry of `SR[ ]` elsewhere. -/
theorem exec_mfsr_next {rt : RegIdx} (h : exec (.mfsr rt n) s = .next t) : s.params.hasSr n = true ∧
    ((n ≠ s.params.pswIndex ∧ t = (s.setReg rt (s.sysReg n)).advance) ∨
      (n = s.params.pswIndex ∧ ∃ l, s.params.pswBits = some l ∧
        t = (s.setReg rt (packPsw l s.psw (Config.freePswBits s.pswEpoch))).advance)) := by
  have hsr : s.params.hasSr n = true := (ifWellFormed_next h).1
  refine ⟨hsr, ?_⟩
  by_cases hn : n = s.params.pswIndex
  · subst hn
    cases hl : s.params.pswBits with
    | none =>
      rw [exec_mfsr_of_hasSr hsr, if_pos rfl, readPsw_noLayout hl] at h
      cases h
    | some l => exact .inr ⟨rfl, l, rfl, writeReg_next ((exec_mfsr_psw hsr hl rt).symm.trans h)⟩
  · exact .inl ⟨hn, writeReg_next ((exec_mfsr_sysReg hsr hn rt).symm.trans h)⟩

/-! ### What `mtsr` does -/

/-- `mtsr` of a member of `SRIDX_SET`: `PSW_INDEX` has a writing of its own, elsewhere `SR_PLAIN` decides. -/
theorem exec_mtsr_of_hasSr (hsr : s.params.hasSr n = true) (rt : RegIdx) : exec (.mtsr rt n) s =
    if n = s.params.pswIndex then writePsw (s.reg rt) s
    else if s.params.srIsPlain n then .next (s.setSysReg n (s.reg rt)).advance
    else refuse (.unmodelled .mtsrSideEffects) :=
  ifWellFormed_true (i := .mtsr rt n) hsr _

theorem exec_mtsr_of_not_hasSr (hsr : s.params.hasSr n = false) (rt : RegIdx) :
    exec (.mtsr rt n) s = .fault (.notAnInstruction s.pc (s.wordOf (.mtsr rt n))) :=
  ifWellFormed_false (i := .mtsr rt n) hsr _

theorem exec_mtsr_plain (hsr : s.params.hasSr n = true) (hn : n ≠ s.params.pswIndex)
    (hplain : s.params.srIsPlain n = true) (rt : RegIdx) :
    exec (.mtsr rt n) s = .next (s.setSysReg n (s.reg rt)).advance := by
  rw [exec_mtsr_of_hasSr hsr, if_neg hn, if_pos hplain]

theorem exec_mtsr_not_plain (hsr : s.params.hasSr n = true) (hn : n ≠ s.params.pswIndex)
    (hplain : s.params.srIsPlain n = false) (rt : RegIdx) :
    exec (.mtsr rt n) s = .refused (.unmodelled .mtsrSideEffects) := by
  rw [exec_mtsr_of_hasSr hsr, if_neg hn, if_neg (ne_true_of_eq_false hplain)]; rfl

theorem writePsw_noLayout (hl : s.params.pswBits = none) (w : Word) :
    writePsw w s = .refused (.unmodelled .mtsrPsw) := by
  unfold writePsw; rw [hl]; rfl

/-- A completed `mtsr` elsewhere than at `PSW_INDEX` has written the entry of `SR[ ]`. -/
theorem exec_mtsr_next {rt : RegIdx} (hn : n ≠ s.params.pswIndex) (h : exec (.mtsr rt n) s = .next t) :
    s.params.hasSr n = true ∧ t = (s.setSysReg n (s.reg rt)).advance := by
  have hsr : s.params.hasSr n = true := (ifWellFormed_next h).1
  refine ⟨hsr, ?_⟩
  cases hplain : s.params.srIsPlain n with
  | true =>
    rw [exec_mtsr_plain hsr hn hplain] at h
    cases h
    rfl
  | false =>
    rw [exec_mtsr_not_plain hsr hn hplain] at h
    cases h

end

/-! ### The statements -/

/-- Settles O38: `mfsr` writes a general register and `pc` alone, so it leaves every word that a second read gives; a
plain `mtsr` leaves PSW and the parameters, so the index is read as an entry of `SR[ ]`. -/
theorem systemRegisterReadsRepeat : Obligations.SystemRegisterReadsRepeat := by
  intro s rt rt' n
  refine ⟨fun t h => ?_, fun hn t h => ?_⟩
  · obtain ⟨hsr, ⟨hn, rfl⟩ | ⟨rfl, l, hl, rfl⟩⟩ := exec_mfsr_next h
    · exact ⟨_, exec_mfsr_sysReg (by simpa using hsr) (by simpa using hn) rt', by simp⟩
    · exact ⟨_, exec_mfsr_psw (s := (s.setReg rt _).advance) hsr hl rt', by simp⟩
  · obtain ⟨hsr, rfl⟩ := exec_mtsr_next hn h
    exact ⟨_, exec_mfsr_sysReg (by simpa using hsr) (by simpa using hn) rt', by simp [State.sysReg_setSysReg]⟩

/-- Settles O36, by the index and, for `mtsr`, by `SR_PLAIN`. -/
theorem systemRegisterMoves : Obligations.SystemRegisterMoves := by
  intro s rt n
  refine ⟨fun hsr hn => ?read, fun hsr hn hplain => ?write, fun hsr hn hplain => exec_mtsr_not_plain hsr hn hplain rt,
    fun hsr hn hl => ?noLayout, fun hsr => ?outside⟩
  case read =>
    rw [exec_mfsr_sysReg hsr hn]
    exact writeReg_frame rfl
  case write =>
    exact ⟨_, exec_mtsr_plain hsr hn hplain rt, fun n' => State.sysReg_setSysReg s n n' _, rfl, fun _ _ => rfl,
      fun _ _ => rfl, fun _ => rfl, ⟨rfl, rfl⟩, rfl, rfl, rfl, rfl⟩
  case noLayout =>
    rw [exec_mfsr_of_hasSr hsr, exec_mtsr_of_hasSr hsr, if_pos hn, if_pos hn]
    exact ⟨readPsw_noLayout hl rt, writePsw_noLayout hl (s.reg rt)⟩
  case outside =>
    exact ⟨⟨_, exec_mfsr_of_not_hasSr hsr rt⟩, ⟨_, exec_mtsr_of_not_hasSr hsr rt⟩⟩

end Sys2Proof.Machine

/-! PROOFS. Loads and stores whose access passes its checks: what each shared shape does and leaves unchanged (R51, R52,
R137), for every size; and post-increment loads whose operands overlap (R138, R158). -/

namespace Sys2Proof.Machine

/-! ### The value a load writes -/

/-- What a load that reads at `p` writes to its register (R51). -/
def State.loaded (s : State) (sz : Size) (signed : Bool) (p : Word) : Word :=
  extendLoaded sz signed (assemble s.psw.be (readBytes s.mem p (sizeBytes sz)))

/-- What a word load writes (R51, R120). -/
theorem State.loaded_word (s : State) (p : Word) : s.loaded .word false p = s.wordAt p := assemble_word s p

/-- What a zero-extending halfword load writes (R51, R121). -/
theorem State.loaded_half_zero (s : State) (p : Word) : s.loaded .half false p = (s.halfAt p).setWidth 32 := by
  unfold State.loaded
  rw [assemble_half]
  exact congrArg (BitVec.setWidth (w := 16) 32) (BitVec.setWidth_setWidth_of_le _ (by decide))

/-- What a sign-extending halfword load writes (R51, R122). -/
theorem State.loaded_half_sign (s : State) (p : Word) : s.loaded .half true p = (s.halfAt p).signExtend 32 := by
  unfold State.loaded
  rw [assemble_half]
  exact congrArg (BitVec.signExtend 32) (BitVec.setWidth_setWidth_of_le _ (by decide))

/-- What a zero-extending byte load writes (R51, R123). -/
theorem State.loaded_byte_zero (s : State) (p : Word) : s.loaded .byte false p = (s.byteAt p).setWidth 32 := by
  unfold State.loaded
  rw [assemble_byte]
  exact congrArg (BitVec.setWidth (w := 8) 32) (BitVec.setWidth_setWidth_of_le _ (by decide))

/-- What a sign-extending byte load writes (R51, R124). -/
theorem State.loaded_byte_sign (s : State) (p : Word) : s.loaded .byte true p = (s.byteAt p).signExtend 32 := by
  unfold State.loaded
  rw [assemble_byte]
  exact congrArg (BitVec.signExtend 32) (BitVec.setWidth_setWidth_of_le _ (by decide))

/-! ### The shared shapes, where the access passes its checks -/

section
variable {s : State} {sz : Size} {sg : Bool} {rt ra rb : RegIdx} {a p v inc : Word}

/-- A load that reads at `p` is a register result (R137). -/
theorem loadAt_eq_writeReg (h : s.Loads a (sizeBytes sz) p) :
    loadAt sz sg rt a s = writeReg rt (s.loaded sz sg p) s := by
  unfold loadAt
  rw [State.memRead_ok.mpr ⟨p, h, rfl⟩]
  rfl

theorem loadAt_frame (h : s.Loads a (sizeBytes sz) p) (hv : s.loaded sz sg p = v) :
    LoadsTo (loadAt sz sg rt a s) s rt v := by
  rw [loadAt_eq_writeReg h]
  exact writeReg_frame hv

theorem loadPost_eq (h : s.Loads (s.reg ra) (sizeBytes sz) p) : loadPost sz sg rt ra inc s =
    .next ((s.setReg rt (s.loaded sz sg p)).setReg ra (s.reg ra + inc)).advance := by
  unfold loadPost
  rw [State.memRead_ok.mpr ⟨p, h, rfl⟩]
  rfl

/-- `x[ra]` is written last, so `x[rt]` keeps the value loaded only where `rt` is another register. -/
theorem loadPost_frame (hne : rt ≠ ra) (h : s.Loads (s.reg ra) (sizeBytes sz) p) (hv : s.loaded sz sg p = v) :
    LoadsPost (loadPost sz sg rt ra inc s) s rt ra v (s.reg ra + inc) := by
  refine ⟨_, loadPost_eq h, ?_, State.reg_setReg_same .., rfl, fun r hr => ?_, fun _ _ => rfl, fun _ => rfl,
    ⟨rfl, rfl, rfl, rfl, rfl⟩, ⟨rfl, rfl⟩⟩
  · rw [State.advance_reg, State.reg_setReg_other _ _ hne, State.reg_setReg_same, hv]
  · obtain ⟨hrt, hra⟩ : r ≠ rt ∧ r ≠ ra := by simpa using hr
    rw [State.advance_reg, State.reg_setReg_other _ _ hra, State.reg_setReg_other _ _ hrt]

theorem loadPostImm_frame (hne : rt ≠ ra) (h : s.Loads (s.reg ra) (sizeBytes sz) p) (hv : s.loaded sz sg p = v) :
    LoadsPost (loadPostImm sz sg rt ra inc s) s rt ra v (s.reg ra + inc) := by
  unfold loadPostImm
  rw [if_neg hne]
  exact loadPost_frame hne h hv

theorem loadPostReg_frame (hra : rt ≠ ra) (hrb : rt ≠ rb) (h : s.Loads (s.reg ra) (sizeBytes sz) p)
    (hv : s.loaded sz sg p = v) : LoadsPost (loadPostReg sz sg rt ra rb inc s) s rt ra v (s.reg ra + inc) := by
  unfold loadPostReg
  rw [if_neg hra, if_neg hrb]
  exact loadPost_frame hra h hv

/-- `rt5 = ra5` is refused before the access (R138). -/
theorem loadPostImm_overlap_ra : loadPostImm sz sg rt rt inc s = .refused (.operandOverlap .rtRa) := if_pos rfl

/-- `rt5 = ra5` is refused before the access (R158). -/
theorem loadPostReg_overlap_ra : loadPostReg sz sg rt rt rb inc s = .refused (.operandOverlap .rtRa) := if_pos rfl

/-- `rt5 = rb5` is refused before the access (R158). -/
theorem loadPostReg_overlap_rb (hne : rt ≠ ra) :
    loadPostReg sz sg rt ra rt inc s = .refused (.operandOverlap .rtRb) := (if_neg hne).trans (if_pos rfl)

/-- The bytes in memory after a store, and those it leaves alone (R52). -/
theorem State.storeBytes_frame {bytes : List Byte} (hb : split s.psw.be (sizeBytes sz) v = bytes) :
    (addresses p bytes.length).map (s.storeBytes p sz v).byteAt = bytes ∧
      SameBytesBut s (s.storeBytes p sz v) (addresses p bytes.length) := by
  have hlen : bytes.length = sizeBytes sz := hb ▸ length_split ..
  rw [hlen]
  exact ⟨(s.bytes_storeBytes p sz v).trans hb, fun _ hc => s.byteAt_storeBytes_other p sz v hc⟩

/-- A store writes its bytes and no other, and changes nothing else (R52). -/
theorem storeAt_frame {bytes : List Byte} (h : s.Stores a (sizeBytes sz) p)
    (hb : split s.psw.be (sizeBytes sz) (s.reg rt) = bytes) :
    StoresBytes (storeAt sz rt a s) s p bytes [] (fun _ => True) := by
  obtain ⟨hbytes, hother⟩ := State.storeBytes_frame (p := p) hb
  have hstore : storeAt sz rt a s = .next (s.storeBytes p sz (s.reg rt)).advance := by
    unfold storeAt
    rw [State.memWrite_ok.mpr ⟨p, h, rfl⟩]
  exact ⟨_, hstore, hbytes, hother, trivial, rfl, fun _ _ => rfl, fun _ _ => rfl,
    ⟨rfl, rfl, rfl, rfl, rfl⟩, ⟨rfl, rfl⟩⟩

/-- A post-increment store writes `x[ra]` besides, after `x[rt]` was read (R139). -/
theorem storePost_frame {bytes : List Byte} (h : s.Stores (s.reg ra) (sizeBytes sz) p)
    (hb : split s.psw.be (sizeBytes sz) (s.reg rt) = bytes) :
    StoresBytes (storePost sz rt ra inc s) s p bytes [ra] (fun t => t.reg ra = s.reg ra + inc) := by
  obtain ⟨hbytes, hother⟩ := State.storeBytes_frame (p := p) hb
  have hstore : storePost sz rt ra inc s =
      .next ((s.storeBytes p sz (s.reg rt)).setReg ra (s.reg ra + inc)).advance := by
    unfold storePost
    rw [State.memWrite_ok.mpr ⟨p, h, rfl⟩]
  exact ⟨_, hstore, hbytes, hother, State.reg_setReg_same .., rfl,
    fun r hr => State.reg_setReg_other _ _ (List.ne_of_not_mem_cons hr), fun _ _ => rfl,
    ⟨rfl, rfl, rfl, rfl, rfl⟩, ⟨rfl, rfl⟩⟩

end

/-! ### The statements -/

/-- Settles O46: the frame of a load, for each size and extension. -/
theorem immediateOffsetLoads : Obligations.ImmediateOffsetLoads := by
  intro s rt ra imm p
  refine ⟨fun hword => ?_, fun hhalf => ⟨?_, ?_⟩, fun hbyte => ⟨?_, ?_⟩⟩
  · exact loadAt_frame hword (s.loaded_word p)
  · exact loadAt_frame hhalf (s.loaded_half_zero p)
  · exact loadAt_frame hhalf (s.loaded_half_sign p)
  · exact loadAt_frame hbyte (s.loaded_byte_zero p)
  · exact loadAt_frame hbyte (s.loaded_byte_sign p)

/-- Settles O47: the frame of a post-increment load; the overlap is asked about first. -/
theorem postIncrementLoadsImmediate : Obligations.PostIncrementLoadsImmediate := by
  intro s rt ra imm p
  refine ⟨fun hne hword => ?_, fun hne hhalf => ⟨?_, ?_⟩, fun hne hbyte => ⟨?_, ?_⟩, ?_⟩
  · exact loadPostImm_frame hne hword (s.loaded_word p)
  · exact loadPostImm_frame hne hhalf (s.loaded_half_zero p)
  · exact loadPostImm_frame hne hhalf (s.loaded_half_sign p)
  · exact loadPostImm_frame hne hbyte (s.loaded_byte_zero p)
  · exact loadPostImm_frame hne hbyte (s.loaded_byte_sign p)
  · rintro rfl
    exact ⟨loadPostImm_overlap_ra, loadPostImm_overlap_ra, loadPostImm_overlap_ra, loadPostImm_overlap_ra,
      loadPostImm_overlap_ra⟩

/-- Settles O50: the frames of the two shapes of store, for each size. -/
theorem immediateOffsetStores : Obligations.ImmediateOffsetStores := by
  intro s rt ra imm p
  refine ⟨fun hword => ?_, fun hhalf => ?_, fun hbyte => ?_, fun hword => ?_, fun hhalf => ?_, fun hbyte => ?_⟩
  · exact storeAt_frame hword (split_word ..)
  · exact storeAt_frame hhalf (split_half ..)
  · exact storeAt_frame hbyte (split_byte ..)
  · exact storePost_frame hword (split_word ..)
  · exact storePost_frame hhalf (split_half ..)
  · exact storePost_frame hbyte (split_byte ..)

section
variable {i : Instr} {s : State} {sz : Size} {sg : Bool} {rt ra rb : RegIdx} {p v inc : Word}

/-- A well-formed register form with `rt5 = ra5` is refused (R158). -/
theorem ifWellFormed_loadPostReg_overlap_ra (hwf : i.wellFormed s.params = true) :
    ifWellFormed i s (loadPostReg sz sg rt rt rb inc s) = .refused (.operandOverlap .rtRa) :=
  (ifWellFormed_true hwf _).trans loadPostReg_overlap_ra

/-- A well-formed register form with `rt5 = rb5` is refused (R158). -/
theorem ifWellFormed_loadPostReg_overlap_rb (hwf : i.wellFormed s.params = true) (hne : rt ≠ ra) :
    ifWellFormed i s (loadPostReg sz sg rt ra rt inc s) = .refused (.operandOverlap .rtRb) :=
  (ifWellFormed_true hwf _).trans (loadPostReg_overlap_rb hne)

theorem ifWellFormed_loadPostReg_frame (hwf : i.wellFormed s.params = true) (hra : rt ≠ ra) (hrb : rt ≠ rb)
    (h : s.Loads (s.reg ra) (sizeBytes sz) p) (hv : s.loaded sz sg p = v) :
    LoadsPost (ifWellFormed i s (loadPostReg sz sg rt ra rb inc s)) s rt ra v (s.reg ra + inc) := by
  rw [ifWellFormed_true hwf]
  exact loadPostReg_frame hra hrb h hv

end

/-- Settles O54: each overlap is refused before the access; `ra5 = rb5` is not asked about. -/
theorem overlappingOperandsAreRefused : Obligations.OverlappingOperandsAreRefused := by
  intro s rt ra rb imm sv
  obtain ⟨-, -, -, himm⟩ := postIncrementLoadsImmediate s rt rt imm 0#32
  refine ⟨himm rfl, fun hsv => ?overlapRa, fun hsv hne => ?overlapRb, fun hsv hne p =>
    ⟨fun hword => ?word, fun hhalf => ⟨?half, ?halfSigned⟩, fun hbyte => ⟨?byte, ?byteSigned⟩⟩⟩
  case overlapRa =>
    have hwf := decide_eq_true hsv
    exact ⟨ifWellFormed_loadPostReg_overlap_ra hwf, ifWellFormed_loadPostReg_overlap_ra hwf,
      ifWellFormed_loadPostReg_overlap_ra hwf, ifWellFormed_loadPostReg_overlap_ra hwf,
      ifWellFormed_loadPostReg_overlap_ra hwf⟩
  case overlapRb =>
    have hwf := decide_eq_true hsv
    exact ⟨ifWellFormed_loadPostReg_overlap_rb hwf hne, ifWellFormed_loadPostReg_overlap_rb hwf hne,
      ifWellFormed_loadPostReg_overlap_rb hwf hne, ifWellFormed_loadPostReg_overlap_rb hwf hne,
      ifWellFormed_loadPostReg_overlap_rb hwf hne⟩
  case word => exact ifWellFormed_loadPostReg_frame (decide_eq_true hsv) hne hne hword (s.loaded_word p)
  case half => exact ifWellFormed_loadPostReg_frame (decide_eq_true hsv) hne hne hhalf (s.loaded_half_zero p)
  case halfSigned => exact ifWellFormed_loadPostReg_frame (decide_eq_true hsv) hne hne hhalf (s.loaded_half_sign p)
  case byte => exact ifWellFormed_loadPostReg_frame (decide_eq_true hsv) hne hne hbyte (s.loaded_byte_zero p)
  case byteSigned => exact ifWellFormed_loadPostReg_frame (decide_eq_true hsv) hne hne hbyte (s.loaded_byte_sign p)

end Sys2Proof.Machine

/-! PROOFS. Loads and stores with register offset (R140 to R156): the shift of the index, and the frame of each shared
shape once `sv` is known to have `SV_BITS` bits (R87, R100). -/

namespace Sys2Proof.Machine

/-- Settles O18: a shift left by `sv` multiplies by 2^sv in a word, for an `sv` past the width too. -/
theorem indexIsShiftedAndTruncated : Obligations.IndexIsShiftedAndTruncated := by
  intro v sv
  calc (scaledIndex v sv).toNat
    _ = v.toNat <<< sv % 2 ^ 32 := BitVec.toNat_shiftLeft
    _ = v.toNat * 2 ^ sv % 2 ^ 32 := by rw [Nat.shiftLeft_eq]

section
variable {i : Instr} {s : State} {sz : Size} {sg : Bool} {rt ra rb : RegIdx} {a p v inc : Word}

theorem ifWellFormed_loadAt_frame (hwf : i.wellFormed s.params = true) (h : s.Loads a (sizeBytes sz) p)
    (hv : s.loaded sz sg p = v) : LoadsTo (ifWellFormed i s (loadAt sz sg rt a s)) s rt v := by
  rw [ifWellFormed_true hwf]
  exact loadAt_frame h hv

/-- A well-formed register form with `rt5` = `ra5` or `rt5` = `rb5` is refused, whichever it is (R158). -/
theorem ifWellFormed_loadPostReg_overlap (hwf : i.wellFormed s.params = true) (h : rt = ra ∨ rt = rb) :
    ∃ c, ifWellFormed i s (loadPostReg sz sg rt ra rb inc s) = .refused (.operandOverlap c) := by
  by_cases hra : rt = ra
  · subst hra
    exact ⟨_, ifWellFormed_loadPostReg_overlap_ra hwf⟩
  · obtain rfl := h.resolve_left hra
    exact ⟨_, ifWellFormed_loadPostReg_overlap_rb hwf hra⟩

theorem ifWellFormed_storeAt_frame {bytes : List Byte} (hwf : i.wellFormed s.params = true)
    (h : s.Stores a (sizeBytes sz) p) (hb : split s.psw.be (sizeBytes sz) (s.reg rt) = bytes) :
    StoresBytes (ifWellFormed i s (storeAt sz rt a s)) s p bytes [] (fun _ => True) := by
  rw [ifWellFormed_true hwf]
  exact storeAt_frame h hb

theorem ifWellFormed_storePost_frame {bytes : List Byte} (hwf : i.wellFormed s.params = true)
    (h : s.Stores (s.reg ra) (sizeBytes sz) p) (hb : split s.psw.be (sizeBytes sz) (s.reg rt) = bytes) :
    StoresBytes (ifWellFormed i s (storePost sz rt ra inc s)) s p bytes [ra]
      (fun t => t.reg ra = s.reg ra + inc) := by
  rw [ifWellFormed_true hwf]
  exact storePost_frame h hb

end

/-- Settles O48: the frame of a load at any address, so no overlap of the operands matters. -/
theorem registerOffsetLoads : Obligations.RegisterOffsetLoads := by
  intro s rt ra rb sv p hsv
  have hwf := decide_eq_true hsv
  refine ⟨fun hword => ?word, fun hhalf => ⟨?half, ?halfSigned⟩, fun hbyte => ⟨?byte, ?byteSigned⟩⟩
  case word => exact ifWellFormed_loadAt_frame hwf hword (s.loaded_word p)
  case half => exact ifWellFormed_loadAt_frame hwf hhalf (s.loaded_half_zero p)
  case halfSigned => exact ifWellFormed_loadAt_frame hwf hhalf (s.loaded_half_sign p)
  case byte => exact ifWellFormed_loadAt_frame hwf hbyte (s.loaded_byte_zero p)
  case byteSigned => exact ifWellFormed_loadAt_frame hwf hbyte (s.loaded_byte_sign p)

/-- Settles O49: the frame of a post-increment load; both overlaps are asked about before the access. -/
theorem postIncrementLoadsRegister : Obligations.PostIncrementLoadsRegister := by
  intro s rt ra rb sv p hsv
  have hwf := decide_eq_true hsv
  refine ⟨fun hra hrb hword => ?word, fun hra hrb hhalf => ⟨?half, ?halfSigned⟩,
    fun hra hrb hbyte => ⟨?byte, ?byteSigned⟩, fun hoverlap => ?overlap⟩
  case word => exact ifWellFormed_loadPostReg_frame hwf hra hrb hword (s.loaded_word p)
  case half => exact ifWellFormed_loadPostReg_frame hwf hra hrb hhalf (s.loaded_half_zero p)
  case halfSigned => exact ifWellFormed_loadPostReg_frame hwf hra hrb hhalf (s.loaded_half_sign p)
  case byte => exact ifWellFormed_loadPostReg_frame hwf hra hrb hbyte (s.loaded_byte_zero p)
  case byteSigned => exact ifWellFormed_loadPostReg_frame hwf hra hrb hbyte (s.loaded_byte_sign p)
  case overlap =>
    exact ⟨ifWellFormed_loadPostReg_overlap hwf hoverlap, ifWellFormed_loadPostReg_overlap hwf hoverlap,
      ifWellFormed_loadPostReg_overlap hwf hoverlap, ifWellFormed_loadPostReg_overlap hwf hoverlap,
      ifWellFormed_loadPostReg_overlap hwf hoverlap⟩

/-- Settles O51: the frames of the two shapes of store, for each size. -/
theorem registerOffsetStores : Obligations.RegisterOffsetStores := by
  intro s rt ra rb sv p hsv
  have hwf := decide_eq_true hsv
  refine ⟨fun hword => ?word, fun hhalf => ?half, fun hbyte => ?byte, fun hword => ?wordPost, fun hhalf => ?halfPost,
    fun hbyte => ?bytePost⟩
  case word => exact ifWellFormed_storeAt_frame hwf hword (split_word ..)
  case half => exact ifWellFormed_storeAt_frame hwf hhalf (split_half ..)
  case byte => exact ifWellFormed_storeAt_frame hwf hbyte (split_byte ..)
  case wordPost => exact ifWellFormed_storePost_frame hwf hword (split_word ..)
  case halfPost => exact ifWellFormed_storePost_frame hwf hhalf (split_half ..)
  case bytePost => exact ifWellFormed_storePost_frame hwf hbyte (split_byte ..)

end Sys2Proof.Machine

/-! PROOFS. Jumps and branches: the parity of a target, what a transfer to it does, and each branch by the condition it
takes (R160 to R178). -/

namespace Sys2Proof.Machine

/-! ### Targets (R175, R177) -/

theorem getLsbD_zero_of_even {a : Word} (heven : a.toNat % 2 = 0) : a.getLsbD 0 = false := by
  rw [getLsbD_zero_eq, heven]
  rfl

theorem getLsbD_zero_of_odd {a : Word} (hodd : a.toNat % 2 = 1) : a.getLsbD 0 = true := by
  rw [getLsbD_zero_eq, hodd]
  rfl

/-- A displacement that fits a word makes the target the statements name. -/
theorem pcRelative_eq_target {w : Nat} (imm : BitVec w) (s : State) (hfits : w + 1 ≤ 32 := by decide) :
    pcRelative imm s = s.target imm.toInt :=
  have hscaled : scaled imm 1 = BitVec.ofInt 32 (2 * imm.toInt) := by
    rw [← BitVec.ofInt_toInt (x := scaled imm 1), toInt_scaled hfits, pow_one]
  congrArg (s.pc + ·) hscaled

/-- Twice a displacement is even, and so is 2^32: a target has the parity of `pc`. -/
theorem State.target_toNat_mod_two (s : State) (d : Int) : (s.target d).toNat % 2 = s.pc.toNat % 2 := by
  rw [State.target, BitVec.toNat_add, BitVec.toNat_ofInt]
  omega

section
variable {s : State}

/-- From an even `pc` no PC-relative transfer raises. -/
theorem State.target_even (hpc : s.pc.toNat % 2 = 0) (d : Int) : (s.target d).getLsbD 0 = false :=
  getLsbD_zero_of_even ((s.target_toNat_mod_two d).trans hpc)

/-- From an odd `pc` every PC-relative transfer raises. -/
theorem State.target_odd (hpc : s.pc.toNat % 2 = 1) (d : Int) : (s.target d).getLsbD 0 = true :=
  getLsbD_zero_of_odd ((s.target_toNat_mod_two d).trans hpc)

/-! ### Jumps -/

theorem exec_j (imm : BitVec 24) : exec (.j imm) s = transferTo (s.target imm.toInt) s :=
  congrArg (transferTo · s) (pcRelative_eq_target imm s)

theorem exec_jal (imm : BitVec 24) : exec (.jal imm) s = transferTo (s.target imm.toInt) (s.setLp (s.pc + 4#32)) :=
  congrArg (transferTo · _) (pcRelative_eq_target imm s)

end

/-- Settles O40: a target has the parity of `pc`, and a transfer raises exactly at an odd target. -/
theorem pcRelativeJumps : Obligations.PcRelativeJumps := by
  intro s imm
  rw [exec_j, exec_jal]
  refine ⟨fun hpc => ?even, fun hpc => ?odd⟩
  case even =>
    have ht := State.target_even hpc imm.toInt
    exact ⟨transferTo_frame ht, transferTo_link_frame ht⟩
  case odd =>
    have ht := State.target_odd hpc imm.toInt
    exact ⟨transferTo_odd ht, transferTo_odd ht⟩

/-- Settles O41: the target is the register of the state before the link, also where `rt` = `rb`. -/
theorem registerJumps : Obligations.RegisterJumps := by
  intro s rt rb
  refine ⟨fun heven => ?even, fun hodd => ?odd⟩
  case even =>
    have ht := getLsbD_zero_of_even heven
    exact ⟨transferTo_frame ht, transferTo_frame ht, transferTo_link_frame ht, transferTo_link_frame ht⟩
  case odd =>
    have ht := getLsbD_zero_of_odd hodd
    exact ⟨transferTo_odd ht, transferTo_odd ht, transferTo_odd ht, transferTo_odd ht⟩

/-! ### The two shapes of a branch, with the condition as a proposition -/

/-- An instruction that writes one register and advances goes to `pc + 4`. -/
theorem WritesReg.goesTo {o : Out} {s : State} {rt : RegIdx} {P : Word → Prop} (h : WritesReg o s rt P) :
    GoesTo o s (s.pc + 4#32) [rt] (fun t => P (t.reg rt)) := by
  obtain ⟨t, hnext, hval, hpc, hregs, houtside⟩ := h
  exact ⟨t, hnext, hpc, hval, hregs, houtside⟩

section
variable {w : Nat} {P : Prop} [Decidable P] {s : State}

theorem branchIf_taken (hfits : w + 1 ≤ 32) (hP : P) (imm : BitVec w) :
    branchIf (decide P) imm s = transferTo (s.target imm.toInt) s := by
  rw [branchIf, if_pos (decide_eq_true hP), pcRelative_eq_target imm s hfits]

/-- A branch not taken does not look at its target (R177). -/
theorem branchIf_notTaken_goesTo (hP : ¬ P) (imm : BitVec w) :
    GoesTo (branchIf (decide P) imm s) s (s.pc + 4#32) [] (fun _ => True) := by
  rw [branchIf, if_neg (mt of_decide_eq_true hP)]
  exact advance_frame s

theorem branchIf_goesTo (hpc : s.pc.toNat % 2 = 0) (imm : BitVec w) (hfits : w + 1 ≤ 32 := by decide) :
    GoesTo (branchIf (decide P) imm s) s (if P then s.target imm.toInt else s.pc + 4#32) [] (fun _ => True) := by
  split
  case isTrue hP =>
    rw [branchIf_taken hfits hP]
    exact transferTo_frame (State.target_even hpc _)
  case isFalse hP => exact branchIf_notTaken_goesTo hP imm

theorem branchIf_odd (hpc : s.pc.toNat % 2 = 1) (imm : BitVec w) (hP : P) (hfits : w + 1 ≤ 32 := by decide) :
    branchIf (decide P) imm s = .fault (.instructionMisaligned (s.target imm.toInt)) :=
  (branchIf_taken hfits hP imm).trans (transferTo_odd (State.target_odd hpc _))

variable {rt : RegIdx}

/-- The overlap of R24(c), whatever the condition. -/
theorem branchLinkIf_overlap (hrt : rt = s.params.lpIndex) (c : Bool) (imm : BitVec 16) :
    branchLinkIf c rt imm s = .refused (.operandOverlap .rtLp) := by
  rw [branchLinkIf, if_pos hrt]
  rfl

theorem branchLinkIf_taken (hrt : rt ≠ s.params.lpIndex) (hP : P) (imm : BitVec 16) :
    branchLinkIf (decide P) rt imm s = transferTo (s.target imm.toInt) (s.setLp (s.pc + 4#32)) := by
  rw [branchLinkIf, if_neg hrt, if_pos (decide_eq_true hP), pcRelative_eq_target]

/-- A linking branch not taken is a write of `LP` (R178). -/
theorem branchLinkIf_notTaken (hrt : rt ≠ s.params.lpIndex) (hP : ¬ P) (imm : BitVec 16) :
    branchLinkIf (decide P) rt imm s = writeReg s.params.lpIndex (s.pc + 4#32) s := by
  rw [branchLinkIf, if_neg hrt, if_neg (mt of_decide_eq_true hP)]
  rfl

theorem branchLinkIf_notTaken_goesTo (hrt : rt ≠ s.params.lpIndex) (hP : ¬ P) (imm : BitVec 16) :
    GoesTo (branchLinkIf (decide P) rt imm s) s (s.pc + 4#32) [s.params.lpIndex]
      (fun t => t.reg s.params.lpIndex = s.pc + 4#32) := by
  rw [branchLinkIf_notTaken hrt hP]
  exact (writeReg_frame (P := (· = s.pc + 4#32)) rfl).goesTo

theorem branchLinkIf_goesTo (hrt : rt ≠ s.params.lpIndex) (hpc : s.pc.toNat % 2 = 0) (imm : BitVec 16) :
    GoesTo (branchLinkIf (decide P) rt imm s) s (if P then s.target imm.toInt else s.pc + 4#32) [s.params.lpIndex]
      (fun t => t.reg s.params.lpIndex = s.pc + 4#32) := by
  split
  case isTrue hP =>
    rw [branchLinkIf_taken hrt hP]
    exact transferTo_link_frame (State.target_even hpc _)
  case isFalse hP => exact branchLinkIf_notTaken_goesTo hrt hP imm

theorem branchLinkIf_odd (hrt : rt ≠ s.params.lpIndex) (hpc : s.pc.toNat % 2 = 1) (imm : BitVec 16) (hP : P) :
    branchLinkIf (decide P) rt imm s = .fault (.instructionMisaligned (s.target imm.toInt)) :=
  (branchLinkIf_taken hrt hP imm).trans (transferTo_odd (State.target_odd hpc _))

end

/-! ### The condition of each branch -/

theorem isZero_eq (a : Word) : isZero a = decide (a.toNat = 0) :=
  decide_eq_decide.mpr BitVec.toNat_eq

theorem not_isZero_eq (a : Word) : (!isZero a) = decide (a.toNat ≠ 0) := by rw [isZero_eq, decide_not]

theorem not_isNonNegative_eq (a : Word) : (!isNonNegative a) = decide (a.toInt < 0) :=
  decide_not.symm.trans (decide_eq_decide.mpr not_le)

theorem not_isPositive_eq (a : Word) : (!isPositive a) = decide (a.toInt ≤ 0) :=
  decide_not.symm.trans (decide_eq_decide.mpr not_lt)

section
variable (s : State) (rt ra : RegIdx) (d14 : BitVec 14) (d16 : BitVec 16)

/-- `beq` (R165). -/
theorem exec_beq : exec (.beq rt ra d14) s = branchIf (decide (s.reg rt = s.reg ra)) d14 s := rfl

/-- `bne` (R166). -/
theorem exec_bne : exec (.bne rt ra d14) s = branchIf (decide (s.reg rt ≠ s.reg ra)) d14 s :=
  congrArg (branchIf · d14 s) decide_not.symm

/-- `beqz` (R167). -/
theorem exec_beqz : exec (.beqz rt d16) s = branchIf (decide ((s.reg rt).toNat = 0)) d16 s :=
  congrArg (branchIf · d16 s) (isZero_eq _)

/-- `bnez` (R168). -/
theorem exec_bnez : exec (.bnez rt d16) s = branchIf (decide ((s.reg rt).toNat ≠ 0)) d16 s :=
  congrArg (branchIf · d16 s) (not_isZero_eq _)

/-- `bgez` (R169). -/
theorem exec_bgez : exec (.bgez rt d16) s = branchIf (decide (0 ≤ (s.reg rt).toInt)) d16 s := rfl

/-- `bltz` (R170). -/
theorem exec_bltz : exec (.bltz rt d16) s = branchIf (decide ((s.reg rt).toInt < 0)) d16 s :=
  congrArg (branchIf · d16 s) (not_isNonNegative_eq _)

/-- `bgtz` (R171). -/
theorem exec_bgtz : exec (.bgtz rt d16) s = branchIf (decide (0 < (s.reg rt).toInt)) d16 s := rfl

/-- `blez` (R172). -/
theorem exec_blez : exec (.blez rt d16) s = branchIf (decide ((s.reg rt).toInt ≤ 0)) d16 s :=
  congrArg (branchIf · d16 s) (not_isPositive_eq _)

/-- `bgezal` (R173). -/
theorem exec_bgezal : exec (.bgezal rt d16) s = branchLinkIf (decide (0 ≤ (s.reg rt).toInt)) rt d16 s := rfl

/-- `bltzal` (R174). -/
theorem exec_bltzal : exec (.bltzal rt d16) s = branchLinkIf (decide ((s.reg rt).toInt < 0)) rt d16 s :=
  congrArg (branchLinkIf · rt d16 s) (not_isNonNegative_eq _)

end

/-- Settles O43: each of the eight is the shared branch on its own condition. -/
theorem conditionalBranches : Obligations.ConditionalBranches := by
  intro s rt ra d14 d16
  rw [exec_beq, exec_bne, exec_beqz, exec_bnez, exec_bgez, exec_bltz, exec_bgtz, exec_blez]
  refine ⟨fun hpc => ?even, fun hpc => ?odd⟩
  case even =>
    exact ⟨branchIf_goesTo hpc d14, branchIf_goesTo hpc d14, branchIf_goesTo hpc d16, branchIf_goesTo hpc d16,
      branchIf_goesTo hpc d16, branchIf_goesTo hpc d16, branchIf_goesTo hpc d16, branchIf_goesTo hpc d16⟩
  case odd =>
    exact ⟨branchIf_odd hpc d14, branchIf_odd hpc d14, branchIf_odd hpc d16, branchIf_odd hpc d16,
      branchIf_odd hpc d16, branchIf_odd hpc d16, branchIf_odd hpc d16, branchIf_odd hpc d16⟩

/-- Settles O44: where the condition fails, neither shape computes a target. -/
theorem branchesNotTakenNeverRaise : Obligations.BranchesNotTakenNeverRaise := by
  intro s rt ra d14 d16
  rw [exec_beq, exec_bne, exec_beqz, exec_bnez, exec_bgez, exec_bltz, exec_bgtz, exec_blez, exec_bgezal, exec_bltzal]
  exact ⟨(branchIf_notTaken_goesTo · d14), (branchIf_notTaken_goesTo · d14), (branchIf_notTaken_goesTo · d16),
    (branchIf_notTaken_goesTo · d16), (branchIf_notTaken_goesTo · d16), (branchIf_notTaken_goesTo · d16),
    (branchIf_notTaken_goesTo · d16), (branchIf_notTaken_goesTo · d16), (branchLinkIf_notTaken_goesTo · · d16),
    (branchLinkIf_notTaken_goesTo · · d16)⟩

/-- Settles O45: the two linking branches, by overlap, parity of `pc` and condition. -/
theorem linkingBranches : Obligations.LinkingBranches := by
  intro s rt d
  rw [exec_bgezal, exec_bltzal]
  refine ⟨fun hrt hpc => ?even, fun hrt hpc => ?odd, fun hrt => ?overlap⟩
  case even => exact ⟨branchLinkIf_goesTo hrt hpc d, branchLinkIf_goesTo hrt hpc d⟩
  case odd => exact ⟨branchLinkIf_odd hrt hpc d, branchLinkIf_odd hrt hpc d⟩
  case overlap => exact ⟨branchLinkIf_overlap hrt _ d, branchLinkIf_overlap hrt _ d⟩

end Sys2Proof.Machine

/-! PROOFS. Arithmetic and logic (R180 to R207): each result is what the shared register write writes, so what is left of
a statement is a fact about the value alone. -/

namespace Sys2Proof.Machine

/-! ### Words modulo 2^32 (R205) -/

/-- The signed and the unsigned reading of a word agree modulo 2^32. -/
theorem toInt_emod (v : Word) : v.toInt % 2 ^ 32 = v.toNat := by
  rw [BitVec.toInt_eq_toNat_bmod]
  exact Int.bmod_emod.trans (Int.emod_eq_of_lt (Int.natCast_nonneg _) (Int.ofNat_lt.2 v.isLt))

theorem toNat_add_emod (a b : Word) : ((a + b).toNat : Int) = (a.toNat + b.toNat) % 2 ^ 32 := by
  rw [BitVec.toNat_add]
  rfl

theorem toNat_sub_emod (a b : Word) : ((a - b).toNat : Int) = (a.toNat - b.toNat) % 2 ^ 32 := by
  rw [BitVec.toNat_sub]
  omega

/-- Sign extension keeps the signed value (R85). -/
theorem toInt_simm15 (imm : BitVec 15) : (simm15 imm).toInt = imm.toInt := BitVec.toInt_signExtend_of_le (by decide)

theorem toNat_simm15 (imm : BitVec 15) : ((simm15 imm).toNat : Int) = imm.toInt % 2 ^ 32 := by
  rw [← toInt_emod, toInt_simm15]

theorem toNat_add_simm15 (a : Word) (imm : BitVec 15) :
    ((a + simm15 imm).toNat : Int) = (a.toNat + imm.toInt) % 2 ^ 32 := by
  rw [toNat_add_emod, toNat_simm15, Int.add_emod_emod]

theorem toNat_simm15_sub (a : Word) (imm : BitVec 15) :
    ((simm15 imm - a).toNat : Int) = (imm.toInt - a.toNat) % 2 ^ 32 := by
  rw [toNat_sub_emod, toNat_simm15, Int.emod_sub_emod]

/-- Settles O19: the two readings of the immediate agree modulo 2^32, so the sum and the difference do. -/
theorem addAndSubtractWrap : Obligations.AddAndSubtractWrap :=
  fun s _ ra rb imm =>
    ⟨writeReg_frame (toNat_add_simm15 (s.reg ra) imm), writeReg_frame (toNat_simm15_sub (s.reg ra) imm),
      writeReg_frame (toNat_add_emod (s.reg ra) (s.reg rb)), writeReg_frame (toNat_sub_emod (s.reg ra) (s.reg rb))⟩

/-! ### Comparisons and signed overflow (R207) -/

section
variable {b : Bool} {P : Prop} [Decidable P]

theorem flagWord_eq_ite (h : b = true ↔ P) : flagWord b = if P then 1#32 else 0#32 := by
  simp only [flagWord, h]

theorem flagWord_eq_ite_not (h : b = true ↔ ¬ P) : flagWord b = if P then 0#32 else 1#32 := by
  rw [flagWord_eq_ite h, ite_not]

theorem flagWord_eq_one_iff : flagWord b = 1#32 ↔ b = true := by cases b <;> decide

end

theorem outsideSigned32_iff (n : Int) : outsideSigned32 n = true ↔ ¬ (-2 ^ 31 ≤ n ∧ n ≤ 2 ^ 31 - 1) := by
  rw [outsideSigned32, Bool.or_eq_true, decide_eq_true_iff, decide_eq_true_iff]
  omega

theorem unsignedLess_iff (a b : Word) : unsignedLess a b = true ↔ a.toNat < b.toNat := decide_eq_true_iff

theorem signedLess_iff (a b : Word) : signedLess a b = true ↔ a.toInt < b.toInt := decide_eq_true_iff

/-- `slti` compares with the immediate sign-extended and read unsigned (R185). -/
theorem unsignedLess_simm15_iff (a : Word) (imm : BitVec 15) :
    unsignedLess a (simm15 imm) = true ↔ (a.toNat : Int) < imm.toInt % 2 ^ 32 := by
  rw [unsignedLess_iff, ← toNat_simm15, Int.ofNat_lt]

theorem signedLess_simm15_iff (a : Word) (imm : BitVec 15) :
    signedLess a (simm15 imm) = true ↔ a.toInt < imm.toInt := by
  rw [signedLess_iff, toInt_simm15]

/-- Settles O21: the flag is the truth of each comparison; overflow is leaving the signed range. -/
theorem comparisonsWriteOneOrZero : Obligations.ComparisonsWriteOneOrZero := by
  intro s rt ra rb imm
  refine ⟨?slti, ?sltsi, ?slt, ?slts, ?sva, ?svs⟩
  case slti => exact writeReg_frame (flagWord_eq_ite (unsignedLess_simm15_iff (s.reg ra) imm))
  case sltsi => exact writeReg_frame (flagWord_eq_ite (signedLess_simm15_iff (s.reg ra) imm))
  case slt => exact writeReg_frame (flagWord_eq_ite (unsignedLess_iff (s.reg ra) (s.reg rb)))
  case slts => exact writeReg_frame (flagWord_eq_ite (signedLess_iff (s.reg ra) (s.reg rb)))
  case sva => exact writeReg_frame (flagWord_eq_ite_not (outsideSigned32_iff _))
  case svs => exact writeReg_frame (flagWord_eq_ite_not (outsideSigned32_iff _))

/-- The model's overflow of a sum is the library's. -/
theorem addOverflows_eq_saddOverflow (a b : Word) : addOverflows a b = a.saddOverflow b := by
  rw [Bool.eq_iff_iff, addOverflows, outsideSigned32_iff, BitVec.saddOverflow, Bool.or_eq_true, decide_eq_true_iff,
    decide_eq_true_iff]
  omega

/-- The model's overflow of a difference is the library's. -/
theorem subOverflows_eq_ssubOverflow (a b : Word) : subOverflows a b = a.ssubOverflow b := by
  rw [Bool.eq_iff_iff, subOverflows, outsideSigned32_iff, BitVec.ssubOverflow, Bool.or_eq_true, decide_eq_true_iff,
    decide_eq_true_iff]
  omega

/-- Corner case (a) of R198. -/
theorem addOverflows_iff_msb (a b : Word) : addOverflows a b = true ↔ a.msb = b.msb ∧ (a + b).msb ≠ a.msb := by
  rw [addOverflows_eq_saddOverflow, BitVec.saddOverflow_eq]
  simp

/-- Corner case (a) of R199. -/
theorem subOverflows_iff_msb (a b : Word) : subOverflows a b = true ↔ a.msb ≠ b.msb ∧ (a - b).msb = b.msb := by
  rw [subOverflows_eq_ssubOverflow, BitVec.ssubOverflow_eq]
  cases a.msb <;> cases b.msb <;> simp

/-- Settles O22: the flag is 1 exactly at overflow, which the sign bits tell. -/
theorem overflowIsSeenInTheSigns : Obligations.OverflowIsSeenInTheSigns :=
  fun s _ ra rb =>
    ⟨writeReg_frame (flagWord_eq_one_iff.trans (addOverflows_iff_msb (s.reg ra) (s.reg rb))),
      writeReg_frame (flagWord_eq_one_iff.trans (subOverflows_iff_msb (s.reg ra) (s.reg rb)))⟩

/-! ### Logic -/

/-- Zero extension keeps the bits of the immediate; those past it read 0 on both sides (R85). -/
theorem getLsbD_zimm15 (imm : BitVec 15) {k : Nat} (hk : k < 32) : (zimm15 imm).getLsbD k = imm.getLsbD k := by
  simp [zimm15, hk]

/-- Settles O20, bit by bit. -/
theorem bitwiseLogicResults : Obligations.BitwiseLogicResults := by
  intro s rt ra rb imm
  refine ⟨?andi, ?ori, ?xori, ?and, ?nor, ?or, ?xor⟩
  case andi => exact writeReg_frame fun k hk => by rw [BitVec.getLsbD_and, getLsbD_zimm15 imm hk]
  case ori => exact writeReg_frame fun k hk => by rw [BitVec.getLsbD_or, getLsbD_zimm15 imm hk]
  case xori => exact writeReg_frame fun k hk => by rw [BitVec.getLsbD_xor, getLsbD_zimm15 imm hk]
  case and => exact writeReg_frame fun k _ => BitVec.getLsbD_and
  case nor => exact writeReg_frame fun k hk => by simp [hk]
  case or => exact writeReg_frame fun k _ => BitVec.getLsbD_or
  case xor => exact writeReg_frame fun k _ => BitVec.getLsbD_xor

/-! ### Moves, extensions and the byte swap -/

theorem toNat_highImm20 (imm : BitVec 20) : (highImm20 imm).toNat = imm.toNat * 4096 := by
  rw [highImm20, BitVec.toNat_append, Nat.shiftLeft_eq]
  exact Nat.or_zero _

/-- Settles O23: sign extension keeps the signed value, and twelve zeros below multiply by 2^12. -/
theorem moveImmediateResults : Obligations.MoveImmediateResults :=
  fun _ _ imm =>
    ⟨writeReg_frame (BitVec.toInt_signExtend_of_le (by decide)), writeReg_frame (toNat_highImm20 imm)⟩

/-- The low `w` bits, sign-extended, for the byte and the halfword (R200, R201). -/
theorem toInt_signExtend_setWidth {w : Nat} (hw : w ≤ 32) (v : Word) :
    ((v.setWidth w).signExtend 32).toInt = (v.extractLsb' 0 w).toInt := by
  rw [BitVec.toInt_signExtend_of_le hw, BitVec.setWidth_eq_extractLsb' hw]

/-- The low `w` bits, zero-extended, for the byte and the halfword (R202, R203). -/
theorem toNat_setWidth_setWidth {w : Nat} (hw : w ≤ 32) (v : Word) :
    ((v.setWidth w).setWidth 32).toNat = v.toNat % 2 ^ w := by
  rw [BitVec.toNat_setWidth_of_le hw, BitVec.toNat_setWidth]

/-- The four bytes of a concatenation, the highest first. -/
theorem extractLsb'_append4 (a b c d : Byte) :
    BitVec.extractLsb' 24 8 (a ++ b ++ c ++ d) = a ∧ BitVec.extractLsb' 16 8 (a ++ b ++ c ++ d) = b ∧
    BitVec.extractLsb' 8 8 (a ++ b ++ c ++ d) = c ∧ BitVec.extractLsb' 0 8 (a ++ b ++ c ++ d) = d :=
  have pastD {k : Nat} (h : 8 ≤ k) := extract_append_high (l := 8) (a ++ b ++ c) d h
  have pastC {k : Nat} (h : 8 ≤ k) := extract_append_high (l := 8) (a ++ b) c h
  ⟨(pastD (by decide)).trans ((pastC (by decide)).trans BitVec.extractLsb'_append_eq_left),
    (pastD (by decide)).trans ((pastC (by decide)).trans BitVec.extractLsb'_append_eq_right),
    (pastD (by decide)).trans BitVec.extractLsb'_append_eq_right, BitVec.extractLsb'_append_eq_right⟩

/-- Settles O25: the extensions by the width they keep, the swap byte by byte. -/
theorem extensionAndSwapResults : Obligations.ExtensionAndSwapResults :=
  fun s _ ra =>
    ⟨writeReg_frame (toInt_signExtend_setWidth (w := 8) (by decide) (s.reg ra)),
      writeReg_frame (toInt_signExtend_setWidth (w := 16) (by decide) (s.reg ra)),
      writeReg_frame (toNat_setWidth_setWidth (w := 8) (by decide) (s.reg ra)),
      writeReg_frame (toNat_setWidth_setWidth (w := 16) (by decide) (s.reg ra)),
      writeReg_frame (extractLsb'_append4 ..)⟩

end Sys2Proof.Machine

/-! PROOFS. Shifts and rotates (R210 to R219): what each shift function does for an amount `n`, and that a register
shift takes its amount modulo 32; every instruction of the family is one of the four, written by `writeReg`. -/

namespace Sys2Proof.Machine

/-! ### The four shift functions (R219) -/

section
variable (v : Word) (n : Nat)

/-- The shift of `slli` and `sll` is that of a scaled index (R156). -/
theorem toNat_lsl : (lsl v n).toNat = v.toNat * 2 ^ n % 2 ^ 32 := indexIsShiftedAndTruncated v n

theorem toNat_lsr : (lsr v n).toNat = v.toNat / 2 ^ n :=
  calc (lsr v n).toNat
    _ = v.toNat >>> n := BitVec.toNat_ushiftRight v n
    _ = v.toNat / 2 ^ n := Nat.shiftRight_eq_div_pow _ n

/-- The quotient is rounded toward minus infinity (corner case (c) of R212). -/
theorem toInt_asr : (asr v n).toInt = Int.fdiv v.toInt (2 ^ n) :=
  calc (asr v n).toInt
    _ = v.toInt >>> n := BitVec.toInt_sshiftRight
    _ = v.toInt / 2 ^ n := by rw [Int.shiftRight_eq_div_pow, Int.natCast_pow, Int.cast_ofNat_Int]
    _ = Int.fdiv v.toInt (2 ^ n) := (Int.fdiv_eq_ediv_of_nonneg _ (Int.pow_nonneg (by decide))).symm

variable {n}

/-- Below bit `32 - n` a bit comes from the right shift, from there on from the left shift. -/
theorem getLsbD_ror (hn : n < 32) {k : Nat} (hk : k < 32) :
    (ror v n).getLsbD k = v.getLsbD ((k + n) % 32) := by
  unfold ror
  split
  case isTrue h0 => rw [h0, Nat.add_zero, Nat.mod_eq_of_lt hk]
  case isFalse h0 =>
    rw [lsr, lsl, BitVec.getLsbD_or, BitVec.getLsbD_ushiftRight, BitVec.getLsbD_shiftLeft]
    by_cases hlow : k + n < 32
    · have hright : k < 32 - n := by omega
      rw [Nat.mod_eq_of_lt hlow, Nat.add_comm k n]
      simp [hright]
    · have hleft : ¬ k < 32 - n := by omega
      have hwrap : (k + n) % 32 = k - (32 - n) := by omega
      have hout : v.getLsbD (n + k) = false := BitVec.getLsbD_of_ge v _ (by omega)
      simp [hk, hleft, hwrap, hout]

end

/-! ### The amount of a register shift (R218) -/

theorem shiftAmount_eq_mod (v : Word) : shiftAmount v = v.toNat % 32 := BitVec.extractLsb'_toNat ..

theorem shiftAmount_lt (v : Word) : shiftAmount v < 32 := (v.extractLsb' 0 5).isLt

/-- An amount of 0 copies the word (R218). -/
theorem shift_zero (v : Word) : lsl v 0 = v ∧ lsr v 0 = v ∧ asr v 0 = v ∧ ror v 0 = v :=
  ⟨BitVec.shiftLeft_zero v, BitVec.ushiftRight_zero v, BitVec.sshiftRight_zero, if_pos rfl⟩

/-- Settles O26: each instruction writes its shift function's result for an amount of five bits. -/
theorem shiftsByAnImmediate : Obligations.ShiftsByAnImmediate :=
  fun s _ ra n =>
    ⟨writeReg_frame (toNat_lsl (s.reg ra) n.toNat), writeReg_frame (toNat_lsr (s.reg ra) n.toNat),
      writeReg_frame (toInt_asr (s.reg ra) n.toNat), writeReg_frame fun _ => getLsbD_ror (s.reg ra) n.isLt⟩

/-- Settles O27: the register forms are the same shift functions, the amount being `x[rb]` modulo 32. -/
theorem shiftsByARegister : Obligations.ShiftsByARegister := by
  refine ⟨fun s rt ra rb => ?results, shift_zero⟩
  case results =>
    rw [← shiftAmount_eq_mod]
    exact ⟨writeReg_frame (toNat_lsl (s.reg ra) _), writeReg_frame (toNat_lsr (s.reg ra) _),
      writeReg_frame (toInt_asr (s.reg ra) _), writeReg_frame fun _ => getLsbD_ror (s.reg ra) (shiftAmount_lt _)⟩

end Sys2Proof.Machine

/-! PROOFS. Multiply, divide and user special registers (R220 to R236): each d register result is written by one of two
shared shapes, the whole register or its low half, so what is left of a statement is a fact about the value alone. -/

namespace Sys2Proof.Machine

/-! ### The halves of a d register as numbers (R35) -/

theorem extractLsb'_zero_eq_lowHalf (v : DWord) : v.extractLsb' 0 32 = lowHalf v :=
  (BitVec.setWidth_eq_extractLsb' (by decide)).symm

theorem toNat_lowHalf (v : DWord) : (lowHalf v).toNat = v.toNat % 2 ^ 32 := BitVec.toNat_setWidth ..

theorem toNat_highHalf (v : DWord) : (highHalf v).toNat = v.toNat / 2 ^ 32 := by
  have hbits : (highHalf v).toNat = (v.toNat >>> 32) % 2 ^ 32 := BitVec.extractLsb'_toNat ..
  have hv : v.toNat < 2 ^ 64 := v.isLt
  rw [hbits, Nat.shiftRight_eq_div_pow]
  omega

theorem toNat_joinHalves_mod (hi lo : Word) : (joinHalves hi lo).toNat % 2 ^ 32 = lo.toNat := by
  rw [← toNat_lowHalf, lowHalf_joinHalves]

theorem toNat_joinHalves_div (hi lo : Word) : (joinHalves hi lo).toNat / 2 ^ 32 = hi.toNat := by
  rw [← toNat_highHalf, highHalf_joinHalves]

/-! ### The frames of d register results -/

section
variable {i : Instr} {s : State} {k : Nat}

/-- A result for one of the `ND` d registers passes the check of R100 and is written. -/
theorem dregResult_frame {v : DWord} {P : DWord → Prop} (hi : i.wellFormed s.params = decide (k < s.params.nd))
    (hk : k < s.params.nd) (h : P v) : WritesD (ifWellFormed i s (writeDreg k v s)) s k P := by
  rw [ifWellFormed_true (hi.trans (decide_eq_true hk))]
  exact writeDreg_frame h

/-- The same for a low-half result: the high half is kept (R236). -/
theorem dlowResult_frame {v : Word} {P : Nat → Prop} (hi : i.wellFormed s.params = decide (k < s.params.nd))
    (hk : k < s.params.nd) (h : P v.toNat) :
    WritesD (ifWellFormed i s (writeDlo k v s)) s k
      (fun w => w.extractLsb' 32 32 = (s.dreg k).extractLsb' 32 32 ∧ P (w.toNat % 2 ^ 32)) := by
  rw [ifWellFormed_true (hi.trans (decide_eq_true hk))]
  exact writeDlo_frame ⟨highHalf_joinHalves _ _, (toNat_joinHalves_mod _ v).symm ▸ h⟩

end

/-! ### Products (R221, R222) -/

/-- The signed product of two words fits 64 bits. -/
theorem toInt_signedProduct (a b : Word) : (signedProduct a b).toInt = a.toInt * b.toInt := by
  have hlow : -2 ^ 62 ≤ a.toInt * b.toInt := BitVec.le_toInt_mul_toInt
  have hhigh : a.toInt * b.toInt ≤ 2 ^ 62 := BitVec.toInt_mul_toInt_le
  exact BitVec.toInt_ofInt_eq_self (by decide) (by omega) (by omega)

/-- The unsigned product of two words fits 64 bits. -/
theorem toNat_unsignedProduct (a b : Word) : (unsignedProduct a b).toNat = a.toNat * b.toNat :=
  (BitVec.toNat_ofNat ..).trans (Nat.mod_eq_of_lt (BitVec.toNat_mul_toNat_lt (w := 32)))

section
variable {w : Nat} (x : BitVec w) (n : Int)

/-- Adding an exact number, reduced to the width, is adding it modulo `2 ^ w`. -/
theorem toNat_add_ofInt : ((x + BitVec.ofInt w n).toNat : Int) = (x.toNat + n) % 2 ^ w := by
  have hx : x = BitVec.ofInt w x.toNat := by rw [BitVec.ofInt_natCast, BitVec.ofNat_toNat, BitVec.setWidth_eq]
  have hpos : (0 : Int) ≤ (x.toNat + n) % 2 ^ w := Int.emod_nonneg _ (by positivity)
  calc ((x + BitVec.ofInt w n).toNat : Int)
    _ = (BitVec.ofInt w (x.toNat + n)).toNat := by rw [BitVec.ofInt_add, ← hx]
    _ = (x.toNat + n) % 2 ^ w := by
      rw [BitVec.toNat_ofInt, Int.natCast_pow, Int.cast_ofNat_Int, Int.toNat_of_nonneg hpos]

theorem toNat_sub_ofInt : ((x - BitVec.ofInt w n).toNat : Int) = (x.toNat - n) % 2 ^ w := by
  rw [BitVec.sub_eq_add_neg, ← BitVec.ofInt_neg, toNat_add_ofInt, Int.sub_eq_add_neg]

end

theorem unsignedProduct_eq_ofInt (a b : Word) : unsignedProduct a b = BitVec.ofInt 64 (a.toNat * b.toNat) := by
  rw [unsignedProduct, ← BitVec.ofInt_natCast, Int.natCast_mul]

theorem mul_eq_ofInt (a b : Word) : a * b = BitVec.ofInt 32 (a.toNat * b.toNat) := by
  rw [← Int.natCast_mul, BitVec.ofInt_natCast, BitVec.ofNat_mul, BitVec.ofNat_toNat, BitVec.ofNat_toNat,
    BitVec.setWidth_eq, BitVec.setWidth_eq]

/-- Settles O28: the products are exact, and adding or subtracting one is done modulo 2^64. -/
theorem doubleWordProducts : Obligations.DoubleWordProducts := by
  intro s k ra rb hk
  refine ⟨?mults64, ?mult64, ?madds64, ?madd64, ?msubs64, ?msub64⟩
  case mults64 => exact dregResult_frame rfl hk (toInt_signedProduct (s.reg ra) (s.reg rb))
  case mult64 => exact dregResult_frame rfl hk (toNat_unsignedProduct (s.reg ra) (s.reg rb))
  case madds64 => exact dregResult_frame rfl hk (toNat_add_ofInt (s.dreg k) _)
  case madd64 =>
    exact dregResult_frame rfl hk (by rw [unsignedProduct_eq_ofInt]; exact toNat_add_ofInt (s.dreg k) _)
  case msubs64 => exact dregResult_frame rfl hk (toNat_sub_ofInt (s.dreg k) _)
  case msub64 =>
    exact dregResult_frame rfl hk (by rw [unsignedProduct_eq_ofInt]; exact toNat_sub_ofInt (s.dreg k) _)

/-- Settles O29: the low half is one of the word operations, each of them modulo 2^32. -/
theorem singleWordProducts : Obligations.SingleWordProducts := by
  refine ⟨fun s rt ra rb => writeReg_frame (BitVec.toNat_mul ..), fun s k ra rb hk => ⟨?mult32, ?madd32, ?msub32⟩⟩
  case mult32 =>
    exact dlowResult_frame (P := (· = (s.reg ra).toNat * (s.reg rb).toNat % 2 ^ 32)) rfl hk (BitVec.toNat_mul ..)
  case madd32 =>
    refine dlowResult_frame
      (P := (· = ((s.dreg k).toNat % 2 ^ 32 + (s.reg ra).toNat * (s.reg rb).toNat) % 2 ^ 32)) rfl hk ?_
    rw [BitVec.toNat_add, BitVec.toNat_mul, Nat.add_mod_mod, toNat_lowHalf]
  case msub32 =>
    refine dlowResult_frame (P := fun n : Nat => (n : Int) =
      (((s.dreg k).toNat % 2 ^ 32 : Nat) - (s.reg ra).toNat * (s.reg rb).toNat) % 2 ^ 32) rfl hk ?_
    rw [mul_eq_ofInt, toNat_sub_ofInt, toNat_lowHalf]

/-! ### Unsigned division (R233) -/

/-- The quotient is no larger than the dividend, so the low half holds it. -/
theorem unsignedDivide_mod (a b : Word) : (unsignedDivide a b).toNat % 2 ^ 32 = a.toNat / b.toNat := by
  rw [unsignedDivide, toNat_joinHalves_mod, BitVec.toNat_ofNat]
  exact Nat.mod_eq_of_lt (Nat.lt_of_le_of_lt (Nat.div_le_self ..) a.isLt)

theorem unsignedDivide_div (a b : Word) :
    (unsignedDivide a b).toNat / 2 ^ 32 = a.toNat - a.toNat / b.toNat * b.toNat := by
  rw [unsignedDivide, toNat_joinHalves_div, BitVec.toNat_ofNat]
  exact Nat.mod_eq_of_lt (Nat.lt_of_le_of_lt (Nat.sub_le ..) a.isLt)

/-- What the high half holds is the remainder. -/
theorem unsignedDivide_div_eq_mod (a b : Word) : (unsignedDivide a b).toNat / 2 ^ 32 = a.toNat % b.toNat := by
  rw [unsignedDivide_div, Nat.mod_eq_sub_div_mul]

/-! ### Signed division (R234) -/

theorem natAbs_fmod_lt (a : Int) {b : Int} (hb : b ≠ 0) : (a.fmod b).natAbs < b.natAbs := by
  obtain hneg | hpos := Int.lt_or_gt_of_ne hb
  · have hflip := Int.neg_fmod_neg a b
    have hnonneg := Int.fmod_nonneg_of_pos (-a) (Int.neg_pos.2 hneg)
    have hlt := Int.fmod_lt_of_pos (-a) (Int.neg_pos.2 hneg)
    omega
  · have hnonneg := Int.fmod_nonneg_of_pos a hpos
    have hlt := Int.fmod_lt_of_pos a hpos
    omega

theorem natAbs_tmod_lt (a : Int) {b : Int} (hb : b ≠ 0) : (a.tmod b).natAbs < b.natAbs := by
  rw [Int.natAbs_tmod]
  exact Nat.mod_lt _ (Int.natAbs_pos.2 hb)

/-- In both readings the remainder is smaller in size than the divisor. -/
theorem natAbs_remainder_lt (m : DivsRound) (a : Int) {b : Int} (hb : b ≠ 0) :
    (a - signedQuotient m a b * b).natAbs < b.natAbs := by
  rw [Int.mul_comm]
  cases m with
  | floor => exact Int.fmod_def a b ▸ natAbs_fmod_lt a hb
  | trunc => exact Int.tmod_def a b ▸ natAbs_tmod_lt a hb

/-- A quotient of two words fits 32 bits, however it is rounded, but for the one of R235(b). -/
theorem quotient_fits {a b q : Int} (ha : -2 ^ 31 ≤ a) (ha' : a < 2 ^ 31) (hb : b ≠ 0)
    (hdef : ¬ (a = -2 ^ 31 ∧ b = -1)) (hr : (a - q * b).natAbs < b.natAbs) : -2 ^ 31 ≤ q ∧ q < 2 ^ 31 := by
  obtain hneg | hpos := Int.lt_or_gt_of_ne hb
  · have hlow (hq : q ≤ -2 ^ 31 - 1) : (-2 ^ 31 - 1) * b ≤ q * b := Int.mul_le_mul_of_nonpos_right hq hneg.le
    have hhigh (hq : 2 ^ 31 ≤ q) : q * b ≤ 2 ^ 31 * b := Int.mul_le_mul_of_nonpos_right hq hneg.le
    omega
  · have hlow (hq : q ≤ -2 ^ 31 - 1) : q * b ≤ (-2 ^ 31 - 1) * b := Int.mul_le_mul_of_nonneg_right hq hpos.le
    have hhigh (hq : 2 ^ 31 ≤ q) : 2 ^ 31 * b ≤ q * b := Int.mul_le_mul_of_nonneg_right hq hpos.le
    omega

theorem toInt_ne_zero {v : Word} (h : v ≠ 0#32) : v.toInt ≠ 0 := fun h0 => h (BitVec.eq_of_toInt_eq h0)

theorem quotientOverflows_iff (a b : Word) :
    quotientOverflows a b = true ↔ a = 0x80000000#32 ∧ b = 0xFFFFFFFF#32 := by
  rw [quotientOverflows, Bool.and_eq_true, decide_eq_true_iff, decide_eq_true_iff]

section
variable (m : DivsRound) {a b : Word}

/-- The low half of a defined division holds the quotient. -/
theorem toInt_signedDivide_low (hb : b ≠ 0#32) (hdef : ¬ (a = 0x80000000#32 ∧ b = 0xFFFFFFFF#32)) :
    ((signedDivide m a b).extractLsb' 0 32).toInt = signedQuotient m a.toInt b.toInt := by
  have hdef' : ¬ (a.toInt = -2 ^ 31 ∧ b.toInt = -1) := fun ⟨ha, hb⟩ =>
    hdef ⟨BitVec.eq_of_toInt_eq ha, BitVec.eq_of_toInt_eq hb⟩
  obtain ⟨hlow, hhigh⟩ := quotient_fits (BitVec.le_toInt a) BitVec.toInt_lt (toInt_ne_zero hb) hdef'
    (natAbs_remainder_lt m a.toInt (toInt_ne_zero hb))
  rw [extractLsb'_zero_eq_lowHalf, signedDivide, lowHalf_joinHalves]
  exact BitVec.toInt_ofInt_eq_self (by decide) hlow hhigh

/-- The high half of a defined division holds the remainder. -/
theorem toInt_signedDivide_high (hb : b ≠ 0#32) : ((signedDivide m a b).extractLsb' 32 32).toInt =
    a.toInt - signedQuotient m a.toInt b.toInt * b.toInt := by
  have hlt := natAbs_remainder_lt m a.toInt (toInt_ne_zero hb)
  have hlow : -2 ^ 31 ≤ b.toInt := BitVec.le_toInt b
  have hhigh : b.toInt < 2 ^ 31 := BitVec.toInt_lt
  change (highHalf (signedDivide m a b)).toInt = _
  rw [signedDivide, highHalf_joinHalves]
  exact BitVec.toInt_ofInt_eq_self (by decide) (by omega) (by omega)

end

/-! ### What `div` and `divs` do, by the operands (R233 to R235) -/

section
variable {s : State} {k : Nat} {ra rb : RegIdx}

theorem exec_div_zero (hk : k < s.params.nd) (hb : s.reg rb = 0#32) :
    exec (.div k ra rb) s = .refused (.divideUndefined .zero) :=
  (ifWellFormed_true (i := .div k ra rb) (decide_eq_true hk) _).trans (if_pos hb)

theorem exec_div_frame {P : DWord → Prop} (hk : k < s.params.nd) (hb : s.reg rb ≠ 0#32)
    (h : P (unsignedDivide (s.reg ra) (s.reg rb))) : WritesD (exec (.div k ra rb) s) s k P := by
  have hexec : exec (.div k ra rb) s = writeDreg k (unsignedDivide (s.reg ra) (s.reg rb)) s :=
    (ifWellFormed_true (i := .div k ra rb) (decide_eq_true hk) _).trans (if_neg hb)
  exact hexec ▸ writeDreg_frame h

theorem exec_divs_zero (hk : k < s.params.nd) (hb : s.reg rb = 0#32) :
    exec (.divs k ra rb) s = .refused (.divideUndefined .zero) :=
  (ifWellFormed_true (i := .divs k ra rb) (decide_eq_true hk) _).trans (if_pos hb)

theorem exec_divs_of_ne_zero (hk : k < s.params.nd) (hb : s.reg rb ≠ 0#32) : exec (.divs k ra rb) s =
    if quotientOverflows (s.reg ra) (s.reg rb) then refuse (.divideUndefined .overflow)
    else writeDreg k (signedDivide s.params.divsRound (s.reg ra) (s.reg rb)) s :=
  (ifWellFormed_true (i := .divs k ra rb) (decide_eq_true hk) _).trans (if_neg hb)

theorem exec_divs_overflow (hk : k < s.params.nd) (hdef : s.reg ra = 0x80000000#32 ∧ s.reg rb = 0xFFFFFFFF#32) :
    exec (.divs k ra rb) s = .refused (.divideUndefined .overflow) := by
  have hb : s.reg rb ≠ 0#32 := by rw [hdef.2]; decide
  exact (exec_divs_of_ne_zero hk hb).trans (if_pos ((quotientOverflows_iff ..).2 hdef))

theorem exec_divs_frame {P : DWord → Prop} (hk : k < s.params.nd) (hb : s.reg rb ≠ 0#32)
    (hdef : ¬ (s.reg ra = 0x80000000#32 ∧ s.reg rb = 0xFFFFFFFF#32))
    (h : P (signedDivide s.params.divsRound (s.reg ra) (s.reg rb))) : WritesD (exec (.divs k ra rb) s) s k P := by
  rw [exec_divs_of_ne_zero hk hb, if_neg (mt (quotientOverflows_iff ..).1 hdef)]
  exact writeDreg_frame h

end

/-- Settles O30: the halves hold the quotient and the remainder, with the library's facts about these. -/
theorem unsignedDivisionResult : Obligations.UnsignedDivisionResult := by
  refine fun s k ra rb hk =>
    ⟨fun hb => exec_div_frame hk hb ⟨unsignedDivide_mod .., unsignedDivide_div .., ?below, ?sum⟩, exec_div_zero hk⟩
  case below =>
    rw [unsignedDivide_div_eq_mod]
    exact Nat.mod_lt _ (Nat.pos_of_ne_zero fun h0 => hb (BitVec.eq_of_toNat_eq h0))
  case sum => rw [unsignedDivide_mod, unsignedDivide_div_eq_mod, Nat.div_add_mod']

/-- Settles O31: both halves fit 32 bits where the division is defined. -/
theorem signedDivisionResult : Obligations.SignedDivisionResult := by
  refine fun s k ra rb hk => ⟨fun hb hdef => exec_divs_frame hk hb hdef ⟨?quotient, ?sum, ?below⟩, exec_divs_zero hk,
    exec_divs_overflow hk⟩
  case quotient => exact toInt_signedDivide_low s.params.divsRound hb hdef
  case sum =>
    rw [toInt_signedDivide_low _ hb hdef, toInt_signedDivide_high _ hb]
    exact add_sub_cancel ..
  case below =>
    rw [toInt_signedDivide_high _ hb]
    exact natAbs_remainder_lt _ _ (toInt_ne_zero hb)

/-- Settles O32: a zero divisor is asked for first, the overflow next. -/
theorem undefinedDivisionsAreRefused : Obligations.UndefinedDivisionsAreRefused :=
  fun _ _ _ _ hk =>
    ⟨fun hb => ⟨exec_div_zero hk hb, exec_divs_zero hk hb⟩, fun ha hb => exec_divs_overflow hk ⟨ha, hb⟩⟩

/-! ### Where the two roundings agree (R234) -/

theorem fdiv_eq_tdiv_of_dvd {a b : Int} (h : b ∣ a) : a.fdiv b = a.tdiv b :=
  (Int.fdiv_eq_ediv_of_dvd h).trans (Int.tdiv_eq_ediv_of_dvd h).symm

/-- Operands of one sign have a quotient that is not negative, which both readings round down. -/
theorem fdiv_eq_tdiv_of_same_sign {a b : Int} (h : a < 0 ↔ b < 0) : a.fdiv b = a.tdiv b := by
  by_cases ha : a < 0
  · have hb : b < 0 := h.1 ha
    rw [← Int.neg_fdiv_neg, ← Int.neg_tdiv_neg]
    exact Int.fdiv_eq_tdiv_of_nonneg (by omega) (by omega)
  · have hb : ¬ b < 0 := mt h.2 ha
    exact Int.fdiv_eq_tdiv_of_nonneg (by omega) (by omega)

/-- Settles O33: the d register is a function of the quotient, and the two quotients agree. -/
theorem roundingsAgreeOnExactAndSameSign : Obligations.RoundingsAgreeOnExactAndSameSign := by
  intro a b _ h
  have hquotient : signedQuotient .floor a.toInt b.toInt = signedQuotient .trunc a.toInt b.toInt := by
    obtain hdvd | hsign := h
    · exact fdiv_eq_tdiv_of_dvd hdvd
    · rw [BitVec.msb_eq_toInt, BitVec.msb_eq_toInt, decide_eq_decide] at hsign
      exact fdiv_eq_tdiv_of_same_sign hsign
  rw [signedDivide, signedDivide, hquotient]

/-! ### User special registers (R230, R231) -/

/-- Settles O34, by what the selector names. -/
theorem userSpecialRegisterMoves : Obligations.UserSpecialRegisterMoves := by
  intro s rt u
  refine ⟨fun k h => ?low, fun k h => ?high, fun h => ?entry, fun h => ?outside⟩
  case low =>
    rw [exec_mfusr h, exec_mtusr h]
    simp only [extractLsb'_zero_eq_lowHalf]
    exact ⟨writeReg_frame rfl, writeDlo_frame ⟨lowHalf_joinHalves .., highHalf_joinHalves ..⟩⟩
  case high =>
    rw [exec_mfusr h, exec_mtusr h]
    simp only [extractLsb'_zero_eq_lowHalf]
    exact ⟨writeReg_frame rfl, writeDreg_frame ⟨highHalf_joinHalves .., lowHalf_joinHalves ..⟩⟩
  case entry =>
    rw [exec_mfusr h]
    exact ⟨writeReg_frame rfl, _, exec_mtusr h rt, fun u' => State.usrEntry_setUsrEntry s u u' _, rfl, fun _ _ => rfl,
      fun _ _ => rfl, fun _ => rfl, ⟨rfl, rfl⟩, rfl, rfl, rfl, rfl⟩
  case outside =>
    have hnone : (s.params.usrTarget u).isSome = false := by rw [h]; rfl
    exact ⟨⟨_, exec_illFormed (i := .mfusr rt u) hnone⟩, ⟨_, exec_illFormed (i := .mtusr rt u) hnone⟩⟩

end Sys2Proof.Machine

/-! PROOFS. Conditional moves (R240 to R242): the shared move, with its condition as a proposition, is a register result
whichever way the condition goes. -/

namespace Sys2Proof.Machine

section
variable {s : State} {rt : RegIdx} {v : Word}

/-- An instruction that only advances leaves every register the value it had (R242). -/
theorem advance_writesReg : WritesReg (.next s.advance) s rt (· = s.reg rt) := by
  obtain ⟨t, hnext, hpc, -, hregs, houtside⟩ := advance_frame s
  exact ⟨t, hnext, hregs rt List.not_mem_nil, hpc, fun r _ => hregs r List.not_mem_nil, houtside⟩

theorem moveIf_frame {P : Prop} [Decidable P] :
    WritesReg (moveIf (decide P) rt v s) s rt (· = if P then v else s.reg rt) := by
  by_cases hP : P
  · simp only [moveIf, decide_eq_true_eq, if_pos hP]
    exact writeReg_frame rfl
  · simp only [moveIf, decide_eq_true_eq, if_neg hP]
    exact advance_writesReg

end

section
variable (s : State) (rt ra rb : RegIdx)

/-- `cmovz` (R240). -/
theorem exec_cmovz : exec (.cmovz rt ra rb) s = moveIf (decide (s.reg rb = 0#32)) rt (s.reg ra) s := rfl

/-- `cmovn` (R241). -/
theorem exec_cmovn : exec (.cmovn rt ra rb) s = moveIf (decide (s.reg rb ≠ 0#32)) rt (s.reg ra) s :=
  congrArg (moveIf · rt (s.reg ra) s) decide_not.symm

end

/-- Settles O39: both are the shared move, each on its own condition. -/
theorem conditionalMoves : Obligations.ConditionalMoves := by
  intro s rt ra rb
  rw [exec_cmovz, exec_cmovn]
  refine ⟨moveIf_frame, ?moveOnNonzero⟩
  case moveOnNonzero => simpa only [ne_eq, ite_not] using moveIf_frame (P := s.reg rb ≠ 0#32) (v := s.reg ra)

end Sys2Proof.Machine

/-! PROOFS. Serialization and conditional traps (R245 to R253), the returns and mode changes that write PSW and the
instructions the spec gives no transition (R260 to R269), and what a step finds at `pc` and runs (R310, R313). -/

namespace Sys2Proof.Machine

/-! ### Which instruction a step runs -/

section
variable {s : State} {p : Word} {i : Instr}

/-- At the binary level the next instruction is the one the four bytes at the fetch address decode to (R54, R313). -/
theorem State.nextInstr_binary_ok (ht : s.translate .fetch s.pc = some p) (hprog : s.params.program = .binary)
    (htext : ∀ b ∈ addresses p 4, s.params.fetchable b.toNat = true)
    (hdecode : decodeWord (s.instructionWordAt p) = .ok i) : s.nextInstr = .ok i := by
  have hword : s.fetchWord = .ok (s.instructionWordAt p) :=
    State.fetchWord_ok.mpr ⟨p, ht, firstBad_eq_none.mpr htext, rfl⟩
  rw [State.nextInstr_binary hprog]
  exact State.fetchInstr_ok.mpr ⟨_, hword, hdecode⟩

/-- At the assembly level the next instruction is the one the program map holds at the fetch address (R313). -/
theorem State.nextInstr_assembly_ok {items : List ProgramItem} (ht : s.translate .fetch s.pc = some p)
    (hprog : s.params.program = .assembly items) (hat : instrAt items p = some i) : s.nextInstr = .ok i := by
  rw [State.nextInstr_assembly hprog]
  exact State.lookInstr_ok.mpr ⟨p, ht, hat⟩

end

/-- Settles O6: at each level the fetch finds the instruction, and a running core executes what it finds. -/
theorem stepRunsTheInstructionAtPc : Obligations.StepRunsTheInstructionAtPc := by
  intro s p i hrun ht
  refine ⟨fun hprog htext hdecode => ?binary, fun items hprog hat => ?assembly⟩
  case binary => exact step_nextInstr_ok hrun (State.nextInstr_binary_ok ht hprog htext hdecode)
  case assembly => exact step_nextInstr_ok hrun (State.nextInstr_assembly_ok ht hprog hat)

/-! ### What placing a word changes and leaves -/

theorem State.fetchAddress_eq {s : State} {p : Word} (ht : s.translate .fetch s.pc = some p) :
    s.fetchAddress = p := by
  unfold State.fetchAddress
  rw [ht]
  rfl

section
variable (s : State)

@[simp] theorem State.mapPc_run : s.mapPc.run = s.run := by
  unfold State.mapPc
  split <;> rfl

@[simp] theorem State.mapPc_program : s.mapPc.params.program = s.params.program := by
  unfold State.mapPc
  split <;> rfl

@[simp] theorem State.allowFetch_run : s.allowFetch.run = s.run := by
  unfold State.allowFetch
  split <;> rfl

@[simp] theorem State.allowFetch_program : s.allowFetch.params.program = s.params.program := by
  unfold State.allowFetch
  split <;> rfl

/-- `allowFetch` leaves the translation at `pc`, so it allows the fetch where the next fetch goes. -/
theorem State.allowFetch_translate_pc : s.allowFetch.translate .fetch s.allowFetch.pc = s.translate .fetch s.pc := by
  rw [State.allowFetch_translate, State.allowFetch_pc]

/-- The bytes a fetch reads in its own order (R54) are those of a word split in that order. -/
theorem State.fetchBytes_eq_split (v : Word) : s.fetchBytes v = split s.fetchBig (sizeBytes .word) v := by
  rw [split_word]
  rfl

theorem State.readBytes_putFetchWord (v : Word) :
    readBytes (s.putFetchWord v).mem s.fetchAddress (sizeBytes .word) = split s.fetchBig (sizeBytes .word) v := by
  have hlen : (s.fetchBytes v).length = sizeBytes .word := by rw [State.fetchBytes_eq_split, length_split]
  rw [← s.fetchBytes_eq_split v, ← hlen]
  exact readBytes_writeBytes _ _ _ (by rw [hlen]; decide)

/-- The next fetch reads the word put where it reads, in either byte order (R54). -/
theorem State.instructionWordAt_putFetchWord (v : Word) : (s.putFetchWord v).instructionWordAt s.fetchAddress = v :=
  calc (s.putFetchWord v).instructionWordAt s.fetchAddress
    _ = assemble s.fetchBig (readBytes (s.putFetchWord v).mem s.fetchAddress (sizeBytes .word)) :=
      (assemble_instruction (s.putFetchWord v) s.fetchAddress).symm
    _ = assemble s.fetchBig (split s.fetchBig (sizeBytes .word) v) := by rw [s.readBytes_putFetchWord v]
    _ = v := assemble_split_word s.fetchBig v

/-- Where the fetch translates, its four bytes are made program text and hold the word. -/
theorem State.allowFetch_putFetchWord_holds_word {p : Word} (ht : s.translate .fetch s.pc = some p) (v : Word) :
    (∀ b ∈ addresses p 4, (s.allowFetch.putFetchWord v).params.fetchable b.toNat = true) ∧
      (s.allowFetch.putFetchWord v).instructionWordAt p = v := by
  have htext := s.allowFetch_fetchable
  have hword := s.allowFetch.instructionWordAt_putFetchWord v
  rw [State.fetchAddress_eq ht] at htext
  rw [State.fetchAddress_eq (s.allowFetch_translate_pc.trans ht)] at hword
  exact ⟨firstBad_eq_none.mp htext, hword⟩

variable (nbits w : Nat)

theorem State.withFetchWord_run : (s.withFetchWord nbits w).run = .running :=
  (State.allowFetch_run _).trans (State.mapPc_run _)

theorem State.withFetchWord_program : (s.withFetchWord nbits w).params.program = .binary :=
  (State.allowFetch_program _).trans (State.mapPc_program _)

/-- The load is complete: the fetch translates, to four bytes of program text that hold the word (R54, R61, R313). -/
theorem State.withFetchWord_holds_word :
    ∃ p, (s.withFetchWord nbits w).translate .fetch (s.withFetchWord nbits w).pc = some p ∧
      (∀ b ∈ addresses p 4, (s.withFetchWord nbits w).params.fetchable b.toNat = true) ∧
      (s.withFetchWord nbits w).instructionWordAt p = tableWord nbits w := by
  obtain ⟨p, ht⟩ :=
    State.mapPc_translate { s with run := .running, params := { s.params with program := .binary } }
  exact ⟨p, (State.allowFetch_translate_pc _).trans ht, State.allowFetch_putFetchWord_holds_word _ ht _⟩

end

/-- A word of the opcode table decodes as the 32-bit word it stands for. -/
theorem decodeWord_tableWord {nbits w : Nat} {i : Instr} (h : decodeTableWord nbits w = some i) :
    decodeWord (tableWord nbits w) = .ok i := by
  have hjoin := join_bytes_of_word (tableWord nbits w)
  unfold decodeTableWord at h
  simp only [bytesOfWord, decodeBytes, wordOfBytes, hjoin] at h
  cases hdecode : decodeWord (tableWord nbits w) with
  | error e => simp [hdecode, Except.map] at h
  | ok j => simpa [hdecode, Except.map] using h

/-- Settles O8: the state with the word placed meets what a step at the binary level asks for. -/
theorem aPlacedInstructionRuns : Obligations.APlacedInstructionRuns := by
  intro s nbits w i htable
  obtain ⟨p, ht, htext, hword⟩ := s.withFetchWord_holds_word nbits w
  have hdecode : decodeWord ((s.withFetchWord nbits w).instructionWordAt p) = .ok i :=
    hword ▸ decodeWord_tableWord htable
  obtain ⟨hbinary, -⟩ := stepRunsTheInstructionAtPc _ p i (s.withFetchWord_run nbits w) ht
  exact hbinary (s.withFetchWord_program nbits w) htext hdecode

/-! ### Barriers and conditional traps -/

/-- Settles O56: both are the bare advance. -/
theorem barriersOnlyAdvance : Obligations.BarriersOnlyAdvance :=
  fun s => ⟨advance_frame s, advance_frame s⟩

section
variable {s : State} {which : UnmodelledCase} {P : Prop} [Decidable P]

/-- Without operands the condition is not looked at (R253). -/
theorem trapIf_notFixed (h : s.params.trapOperands = .notFixed) (c : Bool) (k : BitVec 15) :
    trapIf which c k s = .refused (.unmodelled which) := by
  rw [trapIf, h]
  rfl

theorem trapIf_taken (h : s.params.trapOperands = .fixed) (hP : P) (k : BitVec 15) :
    trapIf which (decide P) k s = .fault (.trap s.pc (some k)) := by
  rw [trapIf, h, ← eventData_fixed h k]
  exact if_pos (decide_eq_true hP)

theorem trapIf_notTaken_goesTo (h : s.params.trapOperands = .fixed) (hP : ¬ P) (k : BitVec 15) :
    GoesTo (trapIf which (decide P) k s) s (s.pc + 4#32) [] (fun _ => True) := by
  rw [trapIf_next.mpr ⟨h, decide_eq_false hP, rfl⟩]
  exact advance_frame s

end

section
variable (s : State) (rc : RegIdx) (k : BitVec 15)

/-- `teqz` (R250). -/
theorem exec_teqz : exec (.teqz rc k) s = trapIf .teqz (decide (s.reg rc = 0#32)) k s := rfl

/-- `tnez` (R251). -/
theorem exec_tnez : exec (.tnez rc k) s = trapIf .tnez (decide (s.reg rc ≠ 0#32)) k s :=
  congrArg (trapIf .tnez · k s) decide_not.symm

end

/-- Settles O58: both are the shared trap, each on its own condition. -/
theorem conditionalTraps : Obligations.ConditionalTraps := by
  intro s rc k
  rw [exec_teqz, exec_tnez]
  refine ⟨fun hfixed hzero => ?zero, fun hfixed hnonzero => ?nonzero, fun hnotFixed => ?notFixed⟩
  case zero => exact ⟨trapIf_taken hfixed hzero k, trapIf_notTaken_goesTo hfixed (not_not_intro hzero) k⟩
  case nonzero => exact ⟨trapIf_taken hfixed hnonzero k, trapIf_notTaken_goesTo hfixed hnonzero k⟩
  case notFixed => exact ⟨trapIf_notFixed hnotFixed _ k, trapIf_notFixed hnotFixed _ k⟩

/-! ### Mode changes and the returns that turn translation off -/

section
variable (s : State) (q : Psw)

/-- A mode change writes the four fields of PSW and advances (R269). -/
theorem setMode_frame : ∃ t, (.next (s.setPsw q).advance : Out) = .next t ∧ t.psw = q ∧ t.pswEpoch = s.pswEpoch ∧
    Advanced s t ∧ SameRegs s t [] ∧ SameD s t [] ∧ SameBytes s t ∧ SameFiles s t :=
  ⟨_, rfl, rfl, rfl, rfl, fun _ _ => rfl, fun _ _ => rfl, fun _ => rfl, ⟨rfl, rfl, rfl, rfl, rfl⟩⟩

variable {a : Word}

/-- A transfer to an even address with a mode change (R261, R262). -/
theorem transferTo_mode_frame (h : a.getLsbD 0 = false) : ∃ t, transferTo a (s.setPsw q) = .next t ∧ t.pc = a ∧
    t.psw = q ∧ t.pswEpoch = s.pswEpoch ∧ SameRegs s t [] ∧ SameD s t [] ∧ SameBytes s t ∧ SameFiles s t :=
  ⟨_, transferTo_eq h, rfl, rfl, rfl, fun _ _ => rfl, fun _ _ => rfl, fun _ => rfl, ⟨rfl, rfl, rfl, rfl, rfl⟩⟩

/-- `ret.itoff` (R261). -/
theorem exec_retItoff (rb : RegIdx) : exec (.retItoff rb) s =
    transferTo (s.reg rb) (s.setPsw ⟨s.psw.be, s.psw.gie, false, s.psw.dt⟩) := rfl

/-- `ret.toff` (R262). -/
theorem exec_retToff (rb : RegIdx) : exec (.retToff rb) s =
    transferTo (s.reg rb) (s.setPsw ⟨s.psw.be, s.psw.gie, false, false⟩) := rfl

end

/-- Settles O57: each instruction is the mode change of its one field. -/
theorem modeBitInstructions : Obligations.ModeBitInstructions :=
  fun s => ⟨setMode_frame s ⟨true, s.psw.gie, s.psw.it, s.psw.dt⟩,
    setMode_frame s ⟨false, s.psw.gie, s.psw.it, s.psw.dt⟩, setMode_frame s ⟨s.psw.be, true, s.psw.it, s.psw.dt⟩,
    setMode_frame s ⟨s.psw.be, false, s.psw.it, s.psw.dt⟩⟩

/-- Settles O42: a transfer whose mode change is dropped where the target is odd. -/
theorem translationOffReturns : Obligations.TranslationOffReturns := by
  intro s rb
  rw [exec_retItoff, exec_retToff]
  refine ⟨fun heven => ?even, fun hodd => ?odd⟩
  case even =>
    have ht := getLsbD_zero_of_even heven
    exact ⟨transferTo_mode_frame s _ ht, transferTo_mode_frame s _ ht⟩
  case odd =>
    have ht := getLsbD_zero_of_odd hodd
    exact ⟨transferTo_odd ht, transferTo_odd ht⟩

/-! ### Instructions without a transition -/

/-- `iret` (R260): what it would restore is not said (R288). -/
theorem exec_iret (s : State) : exec .iret s = .refused (.unmodelled .iret) := rfl

/-- `cctl` (R263): no operation is named. -/
theorem exec_cctl (s : State) (ops : BitVec 20) : exec (.cctl ops) s = .refused (.unmodelled .cctl) := rfl

/-- Settles O60: the refusal looks neither at the state nor at the operands. -/
theorem unmodelledInstructionsAreRefused : Obligations.UnmodelledInstructionsAreRefused :=
  fun s ops => ⟨exec_iret s, exec_cctl s ops⟩

end Sys2Proof.Machine
